-- ==== Sys2Proof/Word.lean ====
section
/-! DEFINITION. Word.lean: the byte, the one word size the block moves (00_scope R11). -/

namespace Sys2Proof

/-- A byte: an unsigned value 0..255, bit 7 the most significant (00_scope R11). -/
abbrev Byte := BitVec 8

end Sys2Proof
end

