-- ==== Sys2Proof/Syntax.lean ====
section
/-! DEFINITION. Syntax.lean: the names of the block's phases, modes and agents, the Record, and `Instr`, one
constructor for each row of spec/opcode_table.json. -/

namespace Sys2Proof

/-- The synchronizer's phase (10_state R21). Its 2-bit code is in 30_encoding R76. -/
inductive SyncState where
  | seekFirst
  | seekSecond
  | readLength
  | readBody
deriving DecidableEq, Repr

/-- The lifecycle mode (10_state R27). Its 2-bit code is in 30_encoding R77. -/
inductive Life where
  | idle
  | running
  | stopping
  | stopped
deriving DecidableEq, Repr

/-- The Record: five unsigned fields whose values are opaque to the block (10_state R25). -/
structure Record where
  x : BitVec 16
  y : BitVec 16
  w : BitVec 16
  h : BitVec 16
  timestamp : BitVec 64
deriving DecidableEq, Repr, Inhabited

/-- Who takes the next step (00_scope R9, R10). STORE and HOST each have two turns: STORE may serve either side when
both are pending (43_latest_value_store R162), and HOST may issue an operation or return from one. -/
inductive Turn where
  /-- SRC: the next wire unit arrives at the byte source. -/
  | src
  /-- SYNC: P_LOWER, CHECK or the acceptance of the offered event, whichever is enabled. -/
  | sync
  /-- STORE, publish side: S_SERVE_P or S_CLEAR_P. -/
  | storeP
  /-- STORE, take side: S_SERVE_C or S_CLEAR_C. -/
  | storeC
  /-- HOST issues its next operation. -/
  | hostIssue
  /-- HOST returns from STOP (STOP_RET) or from TAKE (C_LOWER). -/
  | hostReturn
  /-- RST samples the reset input. -/
  | rst
deriving DecidableEq, Repr, Inhabited

/-- The operations of the block (30_encoding R88), one constructor for each row of spec/opcode_table.json, in the
table's order. An operand named `ignored` or `arg` is a field of the input word that the rule says is ignored. -/
inductive Instr where
  -- SRC rows: SYNC accepts a source event
  | sfMark0
  | sfSkip (data : Byte)
  | sfIdle (ignored : Byte)
  | ssMark1
  | ssDrop (data : Byte)
  | ssTmo (ignored : Byte)
  | rlLen
  | rlBadlen (data : Byte)
  | rlTmo (ignored : Byte)
  | rbStore (data : Byte)
  | rbLast (data : Byte)
  | rbTmo (ignored : Byte)
  | xFatal (ignored : Byte)
  | srcRsvd (data : Byte)
  -- HOST rows: the caller issues an operation
  | startOk
  | startFail
  | startRej (openOk : BitVec 1)
  | stop (arg : BitVec 1)
  | stopIdle (arg : BitVec 1)
  | take (arg : BitVec 1)
  | stat (arg : BitVec 1)
  -- RST row
  | reset
  -- WIRE row
  | frame (r : Record) (checksum : Byte)
  -- INT rows
  | check
  | stopRet
  | pRaise (r : Record)
  | sServeP
  | pLower
  | sClearP
  | cRaise
  | sServeC
  | cLower
  | sClearC
  | crcInit
  | crcStep (data : Byte)
  | decode
  -- ABS rows
  | publish (r : Record)
  | takeAbs
deriving DecidableEq, Repr

end Sys2Proof
end

