-- ==== Sys2Proof/Config.lean ====
section
/-! DEFINITION. Config.lean: the parameter the spec leaves open and the free values. Each is an opaque constant: it has
no value that a proof can use, so a theorem about the model holds for every value of it. -/

namespace Sys2Proof

/-- The checksum's lookup table, the spec's open parameter `CRC_TABLE` (00_scope R8, 40_checksum_engine R103). Log 4. -/
opaque Config.crcTable : Byte → Byte

/-- The interleaving of the agents past the turns that State fixes: which agent takes the n-th turn (00_scope R10,
43_latest_value_store R162). Free: log 2. -/
opaque Config.schedule : Nat → Turn

/-- The n-th free byte: what an 8-bit register that holds no value contains (93_implementation_defined U6). Log 6. -/
opaque Config.freeByte : Nat → Byte

/-- The n-th free frame buffer: what `buf` contains when it holds no value (93_implementation_defined U5). Log 6. -/
opaque Config.freeBuf : Nat → Vector Byte 19

/-- The n-th free Record: what a Record register that holds no value contains (93_implementation_defined U6). Log 6. -/
opaque Config.freeRecord : Nat → Record

end Sys2Proof
end

