-- ==== Sys2Proof/Machine/Checksum.lean ====
section
/-! DEFINITION. Checksum.lean: the Checksum Engine's functions (40_checksum_engine R100 to R104). -/

namespace Sys2Proof.Machine

/-- One step of the accumulator: `table[acc ^ b]` (40_checksum_engine R102). -/
def crcStepWith (table : Byte → Byte) (acc b : Byte) : Byte := table (acc ^^^ b)

/-- The checksum of a byte sequence with a given table: the accumulator starts at 0 and takes the bytes in order
(40_checksum_engine R100). -/
def crc8With (table : Byte → Byte) (s : List Byte) : Byte := s.foldl (crcStepWith table) 0x00

/-- `crc8` with the block's table, the open parameter (40_checksum_engine R100, R103). -/
def crc8 (s : List Byte) : Byte := crc8With Config.crcTable s

/-- One of the eight shifts that make an entry of the default table (40_checksum_engine R104). -/
def defaultShift (v : Byte) : Byte := if v.msb then (v <<< 1) ^^^ 0x07 else v <<< 1

/-- The default table of 40_checksum_engine R104, generator 0x07: for numeric examples only, never used by the machine. -/
def defaultTable (i : Byte) : Byte :=
  defaultShift (defaultShift (defaultShift (defaultShift (defaultShift (defaultShift (defaultShift (defaultShift i)))))))

end Sys2Proof.Machine
end

