-- ==== Sys2Proof/WellFormed.lean ====
section
/-! DEFINITION. WellFormed.lean: the operand values a row admits. The "other byte" rows exclude the byte that the exact
row of the same phase takes (30_encoding R79, R80). -/

namespace Sys2Proof

/-- The operands are ones the row's encoding admits: SF.SKIP takes every byte but 0xAA, SS.DROP every byte but 0x55,
RL.BADLEN every byte but 0x11 (30_encoding R79); every other operand may have any value of its width. -/
def Instr.wellFormed : Instr → Bool
  | .sfMark0 => true
  | .sfSkip data => data != 0xAA
  | .sfIdle _ => true
  | .ssMark1 => true
  | .ssDrop data => data != 0x55
  | .ssTmo _ => true
  | .rlLen => true
  | .rlBadlen data => data != 0x11
  | .rlTmo _ => true
  | .rbStore _ => true
  | .rbLast _ => true
  | .rbTmo _ => true
  | .xFatal _ => true
  | .srcRsvd _ => true
  | .startOk => true
  | .startFail => true
  | .startRej _ => true
  | .stop _ => true
  | .stopIdle _ => true
  | .take _ => true
  | .stat _ => true
  | .reset => true
  | .frame _ _ => true
  | .check => true
  | .stopRet => true
  | .pRaise _ => true
  | .sServeP => true
  | .pLower => true
  | .sClearP => true
  | .cRaise => true
  | .sServeC => true
  | .cLower => true
  | .sClearC => true
  | .crcInit => true
  | .crcStep _ => true
  | .decode => true
  | .publish _ => true
  | .takeAbs => true

end Sys2Proof
end

