-- ==== Sys2Proof/Decode.lean ====
section
/-! DEFINITION. Decode.lean: the words on the block's input ports, the decoder from a word to the operation it selects,
and the encoder. Decoding depends on `sync_state`, `cnt` and `life` (30_encoding R79, R80): the decoder takes them as its
mode. It is total on every word and rejects by name. -/

namespace Sys2Proof

/-- A word on one of the input ports (10_state R38), by the formats of spec/opcode_table.json. -/
inductive PortWord where
  /-- Format SRC: `kind` in bits 9:8, `data` in bits 7:0 (30_encoding R74). -/
  | src (w : BitVec 10)
  /-- Format HOST: `op` in bits 2:1, `arg` in bit 0 (30_encoding R75). -/
  | host (w : BitVec 3)
  /-- Format RST: the reset input (30_encoding R75). -/
  | rst (w : BitVec 1)
  /-- Format WIRE: 22 bytes, the byte at frame offset k in bits 8k+7..8k (30_encoding R70). -/
  | wire (w : BitVec 176)
deriving DecidableEq, Repr

/-- The part of the state that selects among the rows that share a word (30_encoding R79, R80). -/
structure Mode where
  sync : SyncState
  cnt : BitVec 5
  life : Life
deriving DecidableEq, Repr

/-- Why a word selects no operation. -/
inductive DecodeError where
  /-- A host word while `life` is Stopping: STOP has not returned, no row admits it (44_lifecycle_control R182). -/
  | hostOperationInProgress
  /-- A byte in ReadBody with `cnt` above 18, a value that is never reached (10_state R22). -/
  | countOutOfRange
  /-- The reset input is 0: there is no RESET (30_encoding R75). -/
  | noReset
  /-- 22 bytes without the five constant bytes of a frame (30_encoding R70). -/
  | notAFrame
deriving DecidableEq, Repr

/-! ## Fields of the words -/

/-- `kind`, bits 9:8 of a source word (30_encoding R74). -/
def srcKind (w : BitVec 10) : BitVec 2 := w.extractLsb' 8 2

/-- `data`, bits 7:0 of a source word (30_encoding R74). -/
def srcData (w : BitVec 10) : Byte := w.extractLsb' 0 8

/-- The source word with this kind and data (30_encoding R74). -/
def srcWord (kind : BitVec 2) (data : Byte) : BitVec 10 := kind ++ data

/-- `op`, bits 2:1 of a host word (30_encoding R75). -/
def hostOp (w : BitVec 3) : BitVec 2 := w.extractLsb' 1 2

/-- `arg`, bit 0 of a host word (30_encoding R75). -/
def hostArg (w : BitVec 3) : BitVec 1 := w.extractLsb' 0 1

/-- The host word with this operation and argument (30_encoding R75). -/
def hostWord (op : BitVec 2) (arg : BitVec 1) : BitVec 3 := op ++ arg

/-- The byte at frame offset `k` of a wire unit (30_encoding R70). -/
def wireByte (u : BitVec 176) (k : Nat) : Byte := u.extractLsb' (8 * k) 8

/-- The 22 bytes of a wire unit, offset 0 first (30_encoding R70). -/
def wireBytes (u : BitVec 176) : List Byte := (List.range 22).map (wireByte u)

/-! ## The decoder -/

/-- A byte accepted in this phase (30_encoding R79, the BYTE rows). -/
def decodeByte (m : Mode) (data : Byte) : Except DecodeError Instr :=
  match m.sync with
  | .seekFirst => .ok (if data = 0xAA then .sfMark0 else .sfSkip data)
  | .seekSecond => .ok (if data = 0x55 then .ssMark1 else .ssDrop data)
  | .readLength => .ok (if data = 0x11 then .rlLen else .rlBadlen data)
  | .readBody =>
    if m.cnt < 18 then .ok (.rbStore data)
    else if m.cnt = 18 then .ok (.rbLast data)
    else .error .countOutOfRange

/-- A timeout accepted in this phase (30_encoding R79, the TIMEOUT rows); the data field is ignored (R74). -/
def decodeTimeout (m : Mode) (ignored : Byte) : Instr :=
  match m.sync with
  | .seekFirst => .sfIdle ignored
  | .seekSecond => .ssTmo ignored
  | .readLength => .rlTmo ignored
  | .readBody => .rbTmo ignored

/-- A source word: kind 0 BYTE, 1 TIMEOUT, 2 FATAL, 3 reserved (30_encoding R74, R79). -/
def decodeSrc (m : Mode) (w : BitVec 10) : Except DecodeError Instr :=
  if srcKind w = 0 then decodeByte m (srcData w)
  else if srcKind w = 1 then .ok (decodeTimeout m (srcData w))
  else if srcKind w = 2 then .ok (.xFatal (srcData w))
  else .ok (.srcRsvd (srcData w))

/-- A host word (30_encoding R75): the row is selected by `life` where rows share a word (R80; 44_lifecycle_control R170).
While `life` is Stopping an operation is in progress and no row admits a word (R182). -/
def decodeHost (m : Mode) (w : BitVec 3) : Except DecodeError Instr :=
  if m.life = .stopping then .error .hostOperationInProgress
  else if hostOp w = 0 then
    if m.life = .idle then .ok (if hostArg w = 1 then .startOk else .startFail)
    else .ok (.startRej (hostArg w))
  else if hostOp w = 1 then
    if m.life = .running then .ok (.stop (hostArg w)) else .ok (.stopIdle (hostArg w))
  else if hostOp w = 2 then .ok (.take (hostArg w))
  else .ok (.stat (hostArg w))

/-- The reset input: 1 is RESET (30_encoding R75). -/
def decodeRst (w : BitVec 1) : Except DecodeError Instr :=
  if w = 1 then .ok .reset else .error .noReset

/-- The five constant bytes stand where a frame has them (30_encoding R70, R71). -/
def isFrame (u : BitVec 176) : Bool :=
  wireByte u 0 == 0xAA && wireByte u 1 == 0x55 && wireByte u 2 == 0x11 && wireByte u 20 == 0x55 && wireByte u 21 == 0xAA

/-- The Record fields of a wire unit, little-endian, at offsets 3, 5, 7, 9 and 11 (30_encoding R70, 20_memory R57). -/
def wireRecord (u : BitVec 176) : Record :=
  { x := u.extractLsb' 24 16, y := u.extractLsb' 40 16, w := u.extractLsb' 56 16, h := u.extractLsb' 72 16,
    timestamp := u.extractLsb' 88 64 }

/-- A wire unit: the FRAME row (30_encoding R70, R80). -/
def decodeWire (u : BitVec 176) : Except DecodeError Instr :=
  if isFrame u then .ok (.frame (wireRecord u) (wireByte u 19)) else .error .notAFrame

/-- The operation a port word selects in this mode (30_encoding R79, R80). -/
def decode (m : Mode) : PortWord → Except DecodeError Instr
  | .src w => decodeSrc m w
  | .host w => decodeHost m w
  | .rst w => decodeRst w
  | .wire u => decodeWire u

/-! ## The encoder -/

/-- The 22 bytes of a frame with these fields and checksum byte, offset 0 lowest (30_encoding R70). -/
def frameUnit (r : Record) (checksum : Byte) : BitVec 176 :=
  (0xAA : Byte) ++ (0x55 : Byte) ++ checksum ++ r.timestamp ++ r.h ++ r.w ++ r.y ++ r.x ++ (0x11 : Byte) ++ (0x55 : Byte) ++
    (0xAA : Byte)

/-- The word of an operation, written from the table's match column; `none` for the INT and ABS rows, whose encoding is
the empty string (30_encoding R80). -/
def encode : Instr → Option PortWord
  | .sfMark0 => some (.src 0x0AA)
  | .sfSkip data => some (.src (srcWord 0 data))
  | .sfIdle ignored => some (.src (srcWord 1 ignored))
  | .ssMark1 => some (.src 0x055)
  | .ssDrop data => some (.src (srcWord 0 data))
  | .ssTmo ignored => some (.src (srcWord 1 ignored))
  | .rlLen => some (.src 0x011)
  | .rlBadlen data => some (.src (srcWord 0 data))
  | .rlTmo ignored => some (.src (srcWord 1 ignored))
  | .rbStore data => some (.src (srcWord 0 data))
  | .rbLast data => some (.src (srcWord 0 data))
  | .rbTmo ignored => some (.src (srcWord 1 ignored))
  | .xFatal ignored => some (.src (srcWord 2 ignored))
  | .srcRsvd data => some (.src (srcWord 3 data))
  | .startOk => some (.host 0b001)
  | .startFail => some (.host 0b000)
  | .startRej openOk => some (.host (hostWord 0 openOk))
  | .stop arg => some (.host (hostWord 1 arg))
  | .stopIdle arg => some (.host (hostWord 1 arg))
  | .take arg => some (.host (hostWord 2 arg))
  | .stat arg => some (.host (hostWord 3 arg))
  | .reset => some (.rst 1)
  | .frame r checksum => some (.wire (frameUnit r checksum))
  | .check | .stopRet | .pRaise _ | .sServeP | .pLower | .sClearP | .cRaise | .sServeC | .cLower | .sClearC => none
  | .crcInit | .crcStep _ | .decode | .publish _ | .takeAbs => none

/-- The row's conditions on `state`, `cnt` and `life` in spec/opcode_table.json (30_encoding R79, R80): in which modes a
word of this row selects this row. Rows without a word have none. -/
def Instr.selectedIn (m : Mode) : Instr → Bool
  | .sfMark0 | .sfSkip _ | .sfIdle _ => m.sync == .seekFirst
  | .ssMark1 | .ssDrop _ | .ssTmo _ => m.sync == .seekSecond
  | .rlLen | .rlBadlen _ | .rlTmo _ => m.sync == .readLength
  | .rbStore _ => m.sync == .readBody && m.cnt < 18
  | .rbLast _ => m.sync == .readBody && m.cnt == 18
  | .rbTmo _ => m.sync == .readBody
  | .xFatal _ | .srcRsvd _ => true
  | .startOk | .startFail => m.life == .idle
  | .startRej _ => m.life == .running || m.life == .stopped
  | .stop _ => m.life == .running
  | .stopIdle _ => m.life == .idle || m.life == .stopped
  | .take _ | .stat _ => m.life != .stopping
  | .reset | .frame _ _ => true
  | .check | .stopRet | .pRaise _ | .sServeP | .pLower | .sClearP | .cRaise | .sServeC | .cLower | .sClearC => true
  | .crcInit | .crcStep _ | .decode | .publish _ | .takeAbs => true

/-! ## Words given as bits, without a mode -/

/-- The port word with these bits: the format is the one whose width, in whole bytes, is `nbits`; bits above the word's
width must be 0. One byte is a HOST word, for the RST word has the same width and the table lists HOST first (log 14). -/
def portWordOfBits (nbits w : Nat) : Option PortWord :=
  if nbits = 0 then none
  else if nbits ≤ 1 then if w < 2 then some (.rst (BitVec.ofNat 1 w)) else none
  else if nbits ≤ 8 then if w < 2 ^ 3 then some (.host (BitVec.ofNat 3 w)) else none
  else if nbits ≤ 16 then if w < 2 ^ 10 then some (.src (BitVec.ofNat 10 w)) else none
  else if nbits ≤ 176 then if w < 2 ^ 176 then some (.wire (BitVec.ofNat 176 w)) else none
  else none

/-- The mode in which a word given without one is read (log 14): the mode of the row that lists the word exactly
(0x0AA, 0x055, 0x011; 30_encoding R79), else the mode of the first row of the table that its mask and match select. -/
def tableMode : PortWord → Mode
  | .src w =>
    { sync := if w = 0x055 then .seekSecond else if w = 0x011 then .readLength else .seekFirst, cnt := 0, life := .idle }
  | .host w => { sync := .seekFirst, cnt := 0, life := if hostOp w = 1 then .running else .idle }
  | .rst _ | .wire _ => { sync := .seekFirst, cnt := 0, life := .idle }

/-- The instruction the decoder reads from a word of `nbits` bits, in the mode `tableMode` names for it; `none` where no
word has these bits or the decoder rejects it. -/
def decodeTableWord (nbits w : Nat) : Option Instr :=
  match portWordOfBits nbits w with
  | none => none
  | some p =>
    match decode (tableMode p) p with
    | .ok i => some i
    | .error _ => none

end Sys2Proof
end

