-- ==== Sys2Proof/Machine/Operands.lean ====
section
/-! DEFINITION. Operands.lean: operand assembly (30_encoding R83): the little-endian fields of a payload, the views of
the frame buffer, the packing of a Record, and the frame a sender builds (R86). -/

namespace Sys2Proof.Machine

/-- `le16`: the byte that arrives first is the least significant (00_scope R13). -/
def le16 (b0 b1 : Byte) : BitVec 16 := b1 ++ b0

/-- `le64`: the byte that arrives first is the least significant (00_scope R13). -/
def le64 (b0 b1 b2 b3 b4 b5 b6 b7 : Byte) : BitVec 64 :=
  b7 ++ b6 ++ b5 ++ b4 ++ b3 ++ b2 ++ b1 ++ b0

/-- The payload `buf[0..15]` of a frame buffer (10_state R23). -/
def payload (b : Vector Byte 19) : Vector Byte 16 := Vector.ofFn fun k : Fin 16 => b[k.val]

/-- Byte `k` of a field, the least significant being byte 0. -/
def fieldByte {n : Nat} (v : BitVec n) (k : Nat) : Byte := v.extractLsb' (8 * k) 8

/-- A Record as the 128-bit vector of 30_encoding R73: `x` in bits 15:0 up to `timestamp` in bits 127:64. -/
def packRecord (r : Record) : BitVec 128 := r.timestamp ++ r.h ++ r.w ++ r.y ++ r.x

/-- The Record of a 128-bit vector (30_encoding R73). -/
def unpackRecord (v : BitVec 128) : Record :=
  { x := v.extractLsb' 0 16, y := v.extractLsb' 16 16, w := v.extractLsb' 32 16, h := v.extractLsb' 48 16,
    timestamp := v.extractLsb' 64 64 }

/-- The little-endian reading of a byte sequence: the first byte is the least significant (00_scope R13). -/
def leNat : List Byte → Nat
  | [] => 0
  | b :: bs => b.toNat + 256 * leNat bs

/-- `encode_payload`: the 16 payload bytes of a Record (42_payload_codec R143). -/
def encodePayload (r : Record) : Vector Byte 16 :=
  #v[fieldByte r.x 0, fieldByte r.x 1, fieldByte r.y 0, fieldByte r.y 1, fieldByte r.w 0, fieldByte r.w 1,
     fieldByte r.h 0, fieldByte r.h 1, fieldByte r.timestamp 0, fieldByte r.timestamp 1, fieldByte r.timestamp 2,
     fieldByte r.timestamp 3, fieldByte r.timestamp 4, fieldByte r.timestamp 5, fieldByte r.timestamp 6,
     fieldByte r.timestamp 7]

/-- The source word `BYTE(b)` (30_encoding R74). -/
def byteWord (b : Byte) : BitVec 10 := srcWord 0 b

/-- The source word `TIMEOUT`, with the data field 0 (30_encoding R74, R84). -/
def timeoutWord : BitVec 10 := 0x100

/-- The source word `FATAL`, with the data field 0 (30_encoding R74, R84). -/
def fatalWord : BitVec 10 := 0x200

/-- The 22 bytes of a frame with this Record and this checksum byte, offset 0 first (30_encoding R70). -/
def frameBytes (r : Record) (checksum : Byte) : List Byte :=
  [0xAA, 0x55, 0x11] ++ (encodePayload r).toList ++ [checksum, 0x55, 0xAA]

end Sys2Proof.Machine
end

