-- ==== Sys2Proof/Machine/Codec.lean ====
section
/-! DEFINITION. Codec.lean: the Payload Codec (42_payload_codec R140 to R142). -/

namespace Sys2Proof.Machine

/-- `decode(P)`: four little-endian 16-bit fields, then one of 64 bits; every payload decodes (42_payload_codec R140). -/
def decodePayload (p : Vector Byte 16) : Record :=
  { x := le16 p[0] p[1]
    y := le16 p[2] p[3]
    w := le16 p[4] p[5]
    h := le16 p[6] p[7]
    timestamp := le64 p[8] p[9] p[10] p[11] p[12] p[13] p[14] p[15] }

end Sys2Proof.Machine
end

