-- ==== Sys2Proof/Machine/State.lean ====
section
/-! DEFINITION. State.lean: the machine's state as plain data (10_state R20), its outputs, the reasons a step can stop,
and the state after reset. -/

namespace Sys2Proof.Machine

/-- An outcome label (60_exceptions R191, R193): what a step did, with the information the label records. -/
inductive Label where
  | okQuiet
  | skip (data : Byte)
  | eSecond (data : Byte)
  | eLength (data : Byte)
  | eShort (phase : SyncState) (got : BitVec 5)
  | eTrailer (b17 b18 : Byte)
  | eChecksum (computed received : Byte)
  | eFatal (phase : SyncState) (got : BitVec 5)
  | eOpen
  | eStart (life : Life)
  | frameOk (r : Record)
  | loopExit
deriving DecidableEq, Repr

/-- What a host operation returns (44_lifecycle_control R171 to R181). -/
inductive HostRet where
  /-- START returns true or false. -/
  | started (ok : Bool)
  /-- STOP returns, with no value. -/
  | stopped
  /-- TAKE returns the Record it took, or nothing. -/
  | taken (r : Option Record)
  /-- STAT returns `life`, `loop_alive` and `fatal`. -/
  | status (life : Life) (loopAlive fatal : Bool)
deriving DecidableEq, Repr

/-- What the last step drove on the output ports (10_state R38). Outputs, not architectural state (60_exceptions R193):
no rule reads them. Log 9. -/
structure Outputs where
  /-- `evt`: the outcome label, if the step emits one. -/
  evt : Option Label := none
  /-- `host_ret`: the result of a host operation that returned in this step. -/
  hostRet : Option HostRet := none
  /-- `close`: the pulse when STOP returns. -/
  close : Bool := false
  /-- The Payload Codec's output when DECODE is run by itself (log 18). -/
  codec : Option Record := none
deriving DecidableEq, Repr

/-- The machine: the complete architectural state (10_state R20), the inputs waiting at the ports (R38), the outputs of
the last step, and the model's own fields. -/
structure State where
  /-- The synchronizer's phase (R21). -/
  syncState : SyncState
  /-- How many bytes of body and trailer are stored (R22). -/
  cnt : BitVec 5
  /-- The frame buffer `buf[0..18]` (R23). -/
  buf : Vector Byte 19
  /-- The Checksum Engine's accumulator (R24). -/
  crcAcc : Byte
  /-- A read is outstanding in SeekFirst (R33). -/
  armed : Bool
  /-- The decode loop exists (R29). -/
  loopAlive : Bool
  /-- A transport-fatal error was accepted (R30). -/
  fatal : Bool
  /-- The running flag (R28). -/
  runFlag : Bool
  /-- The lifecycle mode (R27). -/
  life : Life
  /-- The slot holds a Record (R26). -/
  slotValid : Bool
  /-- The slot's Record, meaningful while `slotValid` (R26). -/
  slotRec : Record
  /-- Publish request (R31). -/
  pReq : Bool
  /-- The Record being published, meaningful while `pReq` (R31). -/
  pData : Record
  /-- Publish acknowledge (R31). -/
  pAck : Bool
  /-- Take request (R32). -/
  cReq : Bool
  /-- Take acknowledge (R32). -/
  cAck : Bool
  /-- Whether the take found a Record (R32). -/
  cValid : Bool
  /-- The Record taken, meaningful while `cValid` (R32). -/
  cData : Record
  /-- The source event words not yet consumed; the head is offered on `in_kind`, `in_data` (R38). -/
  source : List (BitVec 10)
  /-- The host words the caller has yet to issue (R38). -/
  hostOps : List (BitVec 3)
  /-- The reset input (R38). -/
  rst : BitVec 1
  /-- Wire units on their way to the source (30_encoding R70). -/
  wire : List (BitVec 176)
  /-- What the last step drove on the outputs (R38). -/
  out : Outputs
  /-- The model's own: the next turns of the interleaving, where they are fixed (log 2). -/
  turns : List Turn
  /-- The model's own: how many turns have been taken (log 2). -/
  tick : Nat
  /-- The model's own: how many free values have been drawn (log 6). -/
  freeCount : Nat
deriving DecidableEq, Repr

/-- Why the machine stops with a fault. -/
inductive Fault where
  /-- Raised by SYNC's turn when a byte is offered in ReadBody with `cnt` above 18: the spec says these values are never
  reached and gives no row for them (10_state R22). Safe: the model stops. Log 13. -/
  | countOutOfRange
deriving DecidableEq, Repr

/-- Why the machine refuses an input. -/
inductive Refusal where
  /-- An instruction without a meaning, raised by exec's arm alone; no arm raises it in this model. Safe. -/
  | notModelled (mnemonic : String)
  /-- Raised by SRC.RSVD: the source offers a word of kind 3, which it must never do (41_frame_synchronizer R129). Safe. -/
  | reservedSourceWord
  /-- Raised by a host operation issued while another is in progress (44_lifecycle_control R182). Safe. -/
  | hostOverlap
deriving DecidableEq, Repr

/-- The machine right after RESET (10_state R39): the values the spec gives, and for the registers that hold no value
the ones log 5 names (all zero). Nothing waits at the ports, nothing is driven, no turn is fixed (log 1). -/
def State.reset : State where
  syncState := .seekFirst
  cnt := 0
  buf := Vector.replicate 19 0
  crcAcc := 0
  armed := false
  loopAlive := false
  fatal := false
  runFlag := false
  life := .idle
  slotValid := false
  slotRec := { x := 0, y := 0, w := 0, h := 0, timestamp := 0 }
  pReq := false
  pData := { x := 0, y := 0, w := 0, h := 0, timestamp := 0 }
  pAck := false
  cReq := false
  cAck := false
  cValid := false
  cData := { x := 0, y := 0, w := 0, h := 0, timestamp := 0 }
  source := []
  hostOps := []
  rst := 0
  wire := []
  out := {}
  turns := []
  tick := 0
  freeCount := 0

end Sys2Proof.Machine
end

