-- ==== Sys2Proof/Machine/Flags.lean ====
section
/-! DEFINITION. Flags.lean: the block has no condition codes and no arithmetic flags (10_state R34). What it has are the
status outputs and the conditions under which each agent's step is enabled, all functions of the control bits. -/

namespace Sys2Proof.Machine

/-! ## Codes of the control and status elements -/

/-- The 2-bit code of `sync_state` (30_encoding R76). -/
def syncCode : SyncState → BitVec 2
  | .seekFirst => 0
  | .seekSecond => 1
  | .readLength => 2
  | .readBody => 3

/-- The 2-bit code of `life` (30_encoding R77). -/
def lifeCode : Life → BitVec 2
  | .idle => 0
  | .running => 1
  | .stopping => 2
  | .stopped => 3

/-- The 4-bit code of an outcome label (60_exceptions R191); codes 12 to 15 are never emitted. -/
def labelCode : Label → BitVec 4
  | .okQuiet => 0
  | .skip _ => 1
  | .eSecond _ => 2
  | .eLength _ => 3
  | .eShort _ _ => 4
  | .eTrailer _ _ => 5
  | .eChecksum _ _ => 6
  | .eFatal _ _ => 7
  | .eOpen => 8
  | .eStart _ => 9
  | .frameOk _ => 10
  | .loopExit => 11

/-- The control and status elements CS0 to CS5 by number (10_state R35), each zero-extended to 2 bits. -/
def controlStatus (s : State) : Vector (BitVec 2) 6 :=
  #v[lifeCode s.life, (BitVec.ofBool s.runFlag).setWidth 2, (BitVec.ofBool s.loopAlive).setWidth 2,
     (BitVec.ofBool s.fatal).setWidth 2, (BitVec.ofBool s.armed).setWidth 2, (BitVec.ofBool s.slotValid).setWidth 2]

/-- What STAT reads: `life`, `loop_alive`, `fatal` (10_state R38, 44_lifecycle_control R181). -/
def State.status (s : State) : HostRet := .status s.life s.loopAlive s.fatal

/-- The slot as the source's `Option<Record>` (10_state R26). -/
def State.slot (s : State) : Option Record := if s.slotValid then some s.slotRec else none

/-- What TAKE returns from the take handshake's registers (43_latest_value_store R160). -/
def State.takeResult (s : State) : Option Record := if s.cValid then some s.cData else none

/-- The part of the state the decoder takes as its mode (30_encoding R79, R80). -/
abbrev State.mode (s : State) : Mode := { sync := s.syncState, cnt := s.cnt, life := s.life }

/-! ## When a step is enabled -/

/-- The publish handshake is idle (10_state R31). -/
abbrev State.PublishIdle (s : State) : Prop := s.pReq = false ∧ s.pAck = false

/-- The take handshake is idle (10_state R32). -/
abbrev State.TakeIdle (s : State) : Prop := s.cReq = false ∧ s.cAck = false

/-- `in_ready`: SYNC accepts the offered event (41_frame_synchronizer R110). -/
abbrev State.InReady (s : State) : Prop :=
  s.loopAlive = true ∧ s.PublishIdle ∧ (s.syncState ≠ .seekFirst ∨ s.armed = true)

/-- CHECK is enabled (44_lifecycle_control R177). -/
abbrev State.CheckReady (s : State) : Prop :=
  s.loopAlive = true ∧ s.syncState = .seekFirst ∧ s.armed = false ∧ s.PublishIdle

/-- P_LOWER is enabled (43_latest_value_store R156). -/
abbrev State.LowerPReady (s : State) : Prop := s.pReq = true ∧ s.pAck = true

/-- S_SERVE_P is enabled (43_latest_value_store R155). -/
abbrev State.ServePReady (s : State) : Prop := s.pReq = true ∧ s.pAck = false

/-- S_CLEAR_P is enabled (43_latest_value_store R157). -/
abbrev State.ClearPReady (s : State) : Prop := s.pReq = false ∧ s.pAck = true

/-- S_SERVE_C is enabled (43_latest_value_store R159). -/
abbrev State.ServeCReady (s : State) : Prop := s.cReq = true ∧ s.cAck = false

/-- S_CLEAR_C is enabled (43_latest_value_store R161). -/
abbrev State.ClearCReady (s : State) : Prop := s.cReq = false ∧ s.cAck = true

/-- C_LOWER is enabled (43_latest_value_store R160). -/
abbrev State.LowerCReady (s : State) : Prop := s.cReq = true ∧ s.cAck = true

/-- STOP_RET is enabled (44_lifecycle_control R176). -/
abbrev State.StopRetReady (s : State) : Prop := s.life = .stopping ∧ s.loopAlive = false

/-- A host operation is in progress: STOP has not returned, or TAKE has not (44_lifecycle_control R182; log 10). -/
abbrev State.HostBusy (s : State) : Prop := s.life = .stopping ∨ s.cReq = true

end Sys2Proof.Machine
end

