-- ==== Sys2Proof/Machine/Ops.lean ====
section
/-! DEFINITION. Ops.lean: the named operations the meanings are made of: the outputs, the input ports, the one way an
attempt is abandoned, the store's slot, and the three ways an operation is tried. -/

namespace Sys2Proof.Machine

/-- The outcome of a step of this machine. -/
abbrev StepOutcome := Host.Outcome State Fault Refusal

/-! ## Outputs and inputs -/

/-- Drive nothing on the outputs: the step emits no label and returns nothing (60_exceptions R193). -/
def State.quiet (s : State) : State := { s with out := {} }

/-- Drive this outcome label and nothing else (60_exceptions R193). -/
def State.emit (s : State) (l : Label) : State := { s with out := { evt := some l } }

/-- Drive this result of a host operation and nothing else (10_state R38). -/
def State.answer (s : State) (r : HostRet) : State := { s with out := { hostRet := some r } }

/-- The offered source event is consumed: it is never offered again (41_frame_synchronizer R110). -/
def State.consume (s : State) : State := { s with source := s.source.tail }

/-- The host word at the port is issued. -/
def State.popHost (s : State) : State := { s with hostOps := s.hostOps.tail }

/-- The 22 bytes of the wire unit at the head become 22 BYTE events at the source, in wire order, after the events it
already holds (30_encoding R70, R85; 20_memory R63). -/
def State.deliver (s : State) (bytes : List Byte) : State :=
  { s with source := s.source ++ bytes.map byteWord, wire := s.wire.tail, out := {} }

/-! ## Abandoning an attempt -/

/-- Back to the top of the loop: `sync_state <- SeekFirst`, `cnt <- 0`, and the buffer holds no value (10_state R23: its
content is a free value, log 6). -/
def State.toSeekFirst (s : State) : State :=
  { s with syncState := .seekFirst, cnt := 0, buf := Config.freeBuf s.freeCount, freeCount := s.freeCount + 1 }

/-- `raise`, the block's only form of taking an exception: back to the top of the loop and the outcome label, nothing
else changes (00_scope R14, 60_exceptions R194, R200). There is no return operation (R201): the next accepted event is
examined as a possible first marker byte. -/
def State.resync (s : State) (l : Label) : State := s.toSeekFirst.emit l

/-! ## The frame's end -/

/-- What `validate` finds (41_frame_synchronizer R123). -/
inductive Verdict where
  | badTrailer
  | badChecksum (computed : Byte)
  | good
deriving DecidableEq, Repr

/-- `validate(B)`: the trailer first, then the checksum (41_frame_synchronizer R123), with a given checksum table. -/
def validateWith (table : Byte → Byte) (b : Vector Byte 19) : Verdict :=
  if b[17] ≠ 0x55 ∨ b[18] ≠ 0xAA then .badTrailer
  else if crc8With table (payload b).toList ≠ b[16] then .badChecksum (crc8With table (payload b).toList)
  else .good

/-- `validate(B)` with the block's table (41_frame_synchronizer R123). -/
def validate (b : Vector Byte 19) : Verdict := validateWith Config.crcTable b

/-- P_RAISE: the Record is held at `p_data` and the request goes up (43_latest_value_store R153). -/
def State.raisePublish (s : State) (r : Record) : State := { s with pData := r, pReq := true }

/-- The checksum evaluation is over: `crc_acc` holds no value (10_state R24, 93_implementation_defined U6; log 8). -/
def State.crcDone (s : State) : State :=
  { s with crcAcc := Config.freeByte s.freeCount, freeCount := s.freeCount + 1 }

/-- The end of a frame, with all 19 bytes in the buffer: trailer, checksum, decode and publish request, and the return to
the top of the loop (41_frame_synchronizer R122). -/
def State.judge (s : State) : State :=
  match validate s.buf with
  | .badTrailer => s.crcDone.resync (.eTrailer s.buf[17] s.buf[18])
  | .badChecksum computed => s.crcDone.resync (.eChecksum computed s.buf[16])
  | .good =>
    (s.crcDone.raisePublish (decodePayload (payload s.buf))).resync (.frameOk (decodePayload (payload s.buf)))

/-! ## The slot -/

/-- PUBLISH: the slot is overwritten whole (43_latest_value_store R151). -/
def State.putSlot (s : State) (r : Record) : State := { s with slotValid := true, slotRec := r }

/-- The emptying half of TAKE.ABS: the slot is `None` and its Record register holds no value (43_latest_value_store R152,
R159; log 6). The value taken is `State.slot` before it. -/
def State.emptySlot (s : State) : State :=
  { s with slotValid := false, slotRec := Config.freeRecord s.freeCount, freeCount := s.freeCount + 1 }

/-- The capturing half of S_SERVE_C: `c_valid` and, when the slot is full, `c_data`; otherwise `c_data` holds no value
(43_latest_value_store R159; log 6). -/
def State.captureSlot (s : State) : State :=
  { s with
    cValid := s.slotValid
    cData := if s.slotValid then s.slotRec else Config.freeRecord s.freeCount
    freeCount := s.freeCount + 1 }

/-! ## Trying an operation -/

/-- An operation with a guard: where the guard does not hold the agent waits (00_scope R15; log 3): a step in which
nothing happens. -/
def State.tryStep (s : State) (guard : Prop) [Decidable guard] (next : State) : StepOutcome :=
  if guard then .next next else .next s.quiet

/-- A step of SYNC that accepts the offered event: it needs `in_ready` (41_frame_synchronizer R110) and the phase the
row belongs to, and it consumes the event. -/
def State.accept (s : State) (here : Prop) [Decidable here] (effect : State → State) : StepOutcome :=
  s.tryStep (s.InReady ∧ here) (effect s.consume)

/-- The issue of a host operation: refused while another is in progress (44_lifecycle_control R182, 93_implementation_defined
U4); otherwise it needs the row's condition, and the word leaves the port. -/
def State.issue (s : State) (here : Prop) [Decidable here] (effect : State → State) : StepOutcome :=
  if s.HostBusy then .refused .hostOverlap else s.tryStep here (effect s.popHost)

end Sys2Proof.Machine
end

