-- ==== Sys2Proof/Machine/Engine.lean ====
section
/-! DEFINITION. Engine.lean: the micro-operations of the Checksum Engine and the Payload Codec, which run inside RB.LAST
(30_encoding R80; log 18). -/

namespace Sys2Proof.Machine

/-- CRC.INIT: the accumulator is set to 0x00 (40_checksum_engine R101). -/
def execCrcInit (s : State) : StepOutcome := .next { s with crcAcc := 0x00 }.quiet

/-- CRC.STEP b: the accumulator becomes the table's entry at `crc_acc ^ b` (40_checksum_engine R102). -/
def execCrcStep (data : Byte) (s : State) : StepOutcome :=
  .next { s with crcAcc := crcStepWith Config.crcTable s.crcAcc data }.quiet

/-- DECODE: the Record of `buf[0..15]` appears at the codec's output (42_payload_codec R140; log 18). -/
def execDecode (s : State) : StepOutcome :=
  .next { s with out := { codec := some (decodePayload (payload s.buf)) } }

end Sys2Proof.Machine
end

