-- ==== Sys2Proof/Machine/Lifecycle.lean ====
section
/-! DEFINITION. Lifecycle.lean: the host operations, the return from STOP, and RESET (44_lifecycle_control R170 to R182). -/

namespace Sys2Proof.Machine

/-- START ok in Idle: the decode loop is launched (44_lifecycle_control R171). -/
def execStartOk (s : State) : StepOutcome :=
  s.issue (s.life = .idle) fun s =>
    { s with runFlag := true, loopAlive := true, syncState := .seekFirst, cnt := 0, armed := false, life := .running }.answer
      (.started true)

/-- START fail in Idle: no state changes (44_lifecycle_control R172, 60_exceptions R197). -/
def execStartFail (s : State) : StepOutcome :=
  s.issue (s.life = .idle) fun s => { s with out := { evt := some .eOpen, hostRet := some (.started false) } }

/-- START outside Idle is rejected, whatever `open_ok` says (44_lifecycle_control R173). -/
def execStartRej (_openOk : BitVec 1) (s : State) : StepOutcome :=
  s.issue (s.life = .running ∨ s.life = .stopped) fun s =>
    { s with out := { evt := some (.eStart s.life), hostRet := some (.started false) } }

/-- STOP in Running: the run flag falls; the operation returns by STOP_RET (44_lifecycle_control R174). -/
def execStop (_arg : BitVec 1) (s : State) : StepOutcome :=
  s.issue (s.life = .running) fun s => { s with runFlag := false, life := .stopping }.quiet

/-- STOP in Idle or Stopped: returns at once, without the `close` pulse (44_lifecycle_control R175). -/
def execStopIdle (_arg : BitVec 1) (s : State) : StepOutcome :=
  s.issue (s.life = .idle ∨ s.life = .stopped) fun s => { s with life := .stopped }.answer .stopped

/-- STOP_RET: STOP returns once the loop has ended, and `close` pulses (44_lifecycle_control R176). -/
def execStopRet (s : State) : StepOutcome :=
  s.tryStep s.StopRetReady { s with life := .stopped, out := { hostRet := some .stopped, close := true } }

/-- TAKE: its issue is C_RAISE; the store serves it and C_LOWER returns it (44_lifecycle_control R179, log 17). -/
def execTake (_arg : BitVec 1) (s : State) : StepOutcome :=
  s.issue s.TakeIdle fun s => { s with cReq := true }.quiet

/-- STAT: returns `life`, `loop_alive` and `fatal`; no state changes (44_lifecycle_control R181). -/
def execStat (_arg : BitVec 1) (s : State) : StepOutcome := s.issue True fun s => s.answer s.status

/-- RESET: every state element takes its reset value, at any time (44_lifecycle_control R180, 10_state R39). What waits at
the ports is the environment's and stays; the reset input falls (log 16). -/
def execReset (s : State) : StepOutcome :=
  .next { State.reset with
    source := s.source, hostOps := s.hostOps, wire := s.wire, turns := s.turns, tick := s.tick, freeCount := s.freeCount }

end Sys2Proof.Machine
end

