-- ==== Sys2Proof/Machine/Store.lean ====
section
/-! DEFINITION. Store.lean: the Latest-Value Store: the abstract operations (43_latest_value_store R151, R152) and the
handshake steps of SYNC, STORE and HOST (R153 to R161). -/

namespace Sys2Proof.Machine

/-! ## The abstract operations -/

/-- PUBLISH r: always possible (43_latest_value_store R151). -/
def execPublish (r : Record) (s : State) : StepOutcome := .next (s.putSlot r).quiet

/-- TAKE.ABS: the slot's content is returned and the slot is emptied; on an empty slot nothing changes
(43_latest_value_store R152). -/
def execTakeAbs (s : State) : StepOutcome := .next ((if s.slotValid then s.emptySlot else s).answer (.taken s.slot))

/-! ## The publish handshake -/

/-- P_RAISE r: needs the publish handshake idle (43_latest_value_store R153). -/
def execPRaise (r : Record) (s : State) : StepOutcome := s.tryStep s.PublishIdle (s.raisePublish r).quiet

/-- S_SERVE_P: PUBLISH of `p_data`, and the acknowledge goes up (43_latest_value_store R155). -/
def execSServeP (s : State) : StepOutcome := s.tryStep s.ServePReady { s.putSlot s.pData with pAck := true }.quiet

/-- P_LOWER: the request goes down and `p_data` holds no value (43_latest_value_store R156; log 6). -/
def execPLower (s : State) : StepOutcome :=
  s.tryStep s.LowerPReady
    { s with pReq := false, pData := Config.freeRecord s.freeCount, freeCount := s.freeCount + 1 }.quiet

/-- S_CLEAR_P: the acknowledge goes down (43_latest_value_store R157). -/
def execSClearP (s : State) : StepOutcome := s.tryStep s.ClearPReady { s with pAck := false }.quiet

/-! ## The take handshake -/

/-- C_RAISE: the request goes up; needs the take handshake idle and no host operation in progress
(43_latest_value_store R158). -/
def execCRaise (s : State) : StepOutcome := s.tryStep (s.TakeIdle ∧ ¬s.HostBusy) { s with cReq := true }.quiet

/-- S_SERVE_C: TAKE.ABS into `c_valid` and `c_data`, and the acknowledge goes up (43_latest_value_store R159). -/
def execSServeC (s : State) : StepOutcome :=
  s.tryStep s.ServeCReady { s.captureSlot.emptySlot with cAck := true }.quiet

/-- C_LOWER: TAKE returns what was captured and the request goes down (43_latest_value_store R160). -/
def execCLower (s : State) : StepOutcome := s.tryStep s.LowerCReady ({ s with cReq := false }.answer (.taken s.takeResult))

/-- S_CLEAR_C: the acknowledge goes down (43_latest_value_store R161). -/
def execSClearC (s : State) : StepOutcome := s.tryStep s.ClearCReady { s with cAck := false }.quiet

end Sys2Proof.Machine
end

