-- ==== Sys2Proof/Machine/Sync.lean ====
section
/-! DEFINITION. Sync.lean: the Frame Synchronizer's operations (41_frame_synchronizer R112 to R129), each a step of SYNC
that consumes one source event. -/

namespace Sys2Proof.Machine

/-! ## SeekFirst -/

/-- SF.MARK0: 0xAA is the first marker byte (41_frame_synchronizer R112). -/
def execSfMark0 (s : State) : StepOutcome :=
  s.accept (s.syncState = .seekFirst) fun s => { s with syncState := .seekSecond, armed := false }.emit .okQuiet

/-- SF.SKIP: any other byte is garbage (41_frame_synchronizer R113). -/
def execSfSkip (data : Byte) (s : State) : StepOutcome :=
  s.accept (s.syncState = .seekFirst) fun s => { s with armed := false }.emit (.skip data)

/-- SF.IDLE: a timeout with no attempt in progress (41_frame_synchronizer R114). -/
def execSfIdle (_ignored : Byte) (s : State) : StepOutcome :=
  s.accept (s.syncState = .seekFirst) fun s => { s with armed := false }.emit .okQuiet

/-! ## SeekSecond -/

/-- SS.MARK1: 0x55 is the second marker byte (41_frame_synchronizer R115). -/
def execSsMark1 (s : State) : StepOutcome :=
  s.accept (s.syncState = .seekSecond) fun s => { s with syncState := .readLength }.emit .okQuiet

/-- SS.DROP: any other byte, 0xAA too, ends the attempt and is not re-examined (41_frame_synchronizer R116). -/
def execSsDrop (data : Byte) (s : State) : StepOutcome :=
  s.accept (s.syncState = .seekSecond) fun s => s.resync (.eSecond data)

/-- SS.TMO: a timeout after the first marker byte (41_frame_synchronizer R117). -/
def execSsTmo (_ignored : Byte) (s : State) : StepOutcome :=
  s.accept (s.syncState = .seekSecond) fun s => s.resync (.eShort .seekSecond 0)

/-! ## ReadLength -/

/-- RL.LEN: the length byte is 17 (41_frame_synchronizer R118). -/
def execRlLen (s : State) : StepOutcome :=
  s.accept (s.syncState = .readLength) fun s => { s with syncState := .readBody, cnt := 0 }.emit .okQuiet

/-- RL.BADLEN: any other length ends the attempt (41_frame_synchronizer R119). -/
def execRlBadlen (data : Byte) (s : State) : StepOutcome :=
  s.accept (s.syncState = .readLength) fun s => s.resync (.eLength data)

/-- RL.TMO: a timeout before the length byte (41_frame_synchronizer R120). -/
def execRlTmo (_ignored : Byte) (s : State) : StepOutcome :=
  s.accept (s.syncState = .readLength) fun s => s.resync (.eShort .readLength 0)

/-! ## ReadBody -/

/-- RB.STORE: one of the first 18 bytes of body and trailer is stored (41_frame_synchronizer R121). -/
def execRbStore (data : Byte) (s : State) : StepOutcome :=
  s.accept (s.syncState = .readBody ∧ s.cnt < 18) fun s =>
    { s with buf := s.buf.setIfInBounds s.cnt.toNat data, cnt := s.cnt + 1 }.emit .okQuiet

/-- RB.LAST: the 19th byte; the frame is judged (41_frame_synchronizer R122). -/
def execRbLast (data : Byte) (s : State) : StepOutcome :=
  s.accept (s.syncState = .readBody ∧ s.cnt = 18) fun s => { s with buf := s.buf.set 18 data }.judge

/-- RB.TMO: a timeout inside the body (41_frame_synchronizer R124). -/
def execRbTmo (_ignored : Byte) (s : State) : StepOutcome :=
  s.accept (s.syncState = .readBody) fun s => s.resync (.eShort .readBody s.cnt)

/-! ## Any phase -/

/-- X.FATAL: the decode loop ends for good (41_frame_synchronizer R125, 60_exceptions R196). -/
def execXFatal (_ignored : Byte) (s : State) : StepOutcome :=
  s.accept True fun s =>
    { s with fatal := true, loopAlive := false, armed := false }.resync (.eFatal s.syncState s.cnt)

/-- SRC.RSVD: kind 3 has no meaning; refused, the word is not consumed (41_frame_synchronizer R129; log 12). -/
def execSrcRsvd (_data : Byte) (_s : State) : StepOutcome := .refused .reservedSourceWord

/-! ## The run flag -/

/-- CHECK: the loop samples the run flag; it arms a read, or the loop ends (44_lifecycle_control R177). -/
def execCheck (s : State) : StepOutcome :=
  s.tryStep s.CheckReady (if s.runFlag then { s with armed := true }.quiet else { s with loopAlive := false }.emit .loopExit)

end Sys2Proof.Machine
end

