-- ==== Sys2Proof/Machine/Wire.lean ====
section
/-! DEFINITION. Wire.lean: the WIRE row, a whole frame arriving at the byte source (30_encoding R70, R85; log 15). -/

namespace Sys2Proof.Machine

/-- FRAME: the 22 bytes of the frame stand at the source as BYTE events, the start marker first (30_encoding R70, R85). SYNC
then accepts them one at a time (41_frame_synchronizer R110). -/
def execFrame (r : Record) (checksum : Byte) (s : State) : StepOutcome := .next (s.deliver (frameBytes r checksum))

end Sys2Proof.Machine
end

