-- ==== Sys2Proof/Machine/Dispatch.lean ====
section
/-! DEFINITION. Dispatch.lean: exec, one arm for each operation. -/

namespace Sys2Proof.Machine

def exec (i : Instr) (s : State) : Host.Outcome State Fault Refusal :=
  match i with
  | .sfMark0 => Sys2Proof.Machine.execSfMark0 s
  | .sfSkip data => Sys2Proof.Machine.execSfSkip data s
  | .sfIdle ignored => Sys2Proof.Machine.execSfIdle ignored s
  | .ssMark1 => Sys2Proof.Machine.execSsMark1 s
  | .ssDrop data => Sys2Proof.Machine.execSsDrop data s
  | .ssTmo ignored => Sys2Proof.Machine.execSsTmo ignored s
  | .rlLen => Sys2Proof.Machine.execRlLen s
  | .rlBadlen data => Sys2Proof.Machine.execRlBadlen data s
  | .rlTmo ignored => Sys2Proof.Machine.execRlTmo ignored s
  | .rbStore data => Sys2Proof.Machine.execRbStore data s
  | .rbLast data => Sys2Proof.Machine.execRbLast data s
  | .rbTmo ignored => Sys2Proof.Machine.execRbTmo ignored s
  | .xFatal ignored => Sys2Proof.Machine.execXFatal ignored s
  | .srcRsvd data => Sys2Proof.Machine.execSrcRsvd data s
  | .startOk => Sys2Proof.Machine.execStartOk s
  | .startFail => Sys2Proof.Machine.execStartFail s
  | .startRej openOk => Sys2Proof.Machine.execStartRej openOk s
  | .stop arg => Sys2Proof.Machine.execStop arg s
  | .stopIdle arg => Sys2Proof.Machine.execStopIdle arg s
  | .take arg => Sys2Proof.Machine.execTake arg s
  | .stat arg => Sys2Proof.Machine.execStat arg s
  | .reset => Sys2Proof.Machine.execReset s
  | .frame r checksum => Sys2Proof.Machine.execFrame r checksum s
  | .check => Sys2Proof.Machine.execCheck s
  | .stopRet => Sys2Proof.Machine.execStopRet s
  | .pRaise r => Sys2Proof.Machine.execPRaise r s
  | .sServeP => Sys2Proof.Machine.execSServeP s
  | .pLower => Sys2Proof.Machine.execPLower s
  | .sClearP => Sys2Proof.Machine.execSClearP s
  | .cRaise => Sys2Proof.Machine.execCRaise s
  | .sServeC => Sys2Proof.Machine.execSServeC s
  | .cLower => Sys2Proof.Machine.execCLower s
  | .sClearC => Sys2Proof.Machine.execSClearC s
  | .crcInit => Sys2Proof.Machine.execCrcInit s
  | .crcStep data => Sys2Proof.Machine.execCrcStep data s
  | .decode => Sys2Proof.Machine.execDecode s
  | .publish r => Sys2Proof.Machine.execPublish r s
  | .takeAbs => Sys2Proof.Machine.execTakeAbs s

end Sys2Proof.Machine
end

