-- ==== Sys2Proof/Machine/Agents.lean ====
section
/-! DEFINITION. Agents.lean: the turn of one agent: which operation it takes, if any (00_scope R9, R10), and how a word
comes to stand at a port. -/

namespace Sys2Proof.Machine

/-- What an agent does with its turn. -/
inductive Selection where
  /-- It has no step to take and waits (00_scope R15). -/
  | idle
  /-- It takes the step of this operation. -/
  | run (i : Instr)
  /-- SRC: these bytes arrive at the source without being a frame (30_encoding R81, log 24). -/
  | deliver (bytes : List Byte)
  /-- No row admits the word at the port. -/
  | reject (e : DecodeError)
deriving DecidableEq, Repr

/-- What is selected by a decoded word. -/
def selectDecoded : Except DecodeError Instr → Selection
  | .ok i => .run i
  | .error e => .reject e

/-- SRC's turn: the wire unit at the head, if any, arrives (30_encoding R70). -/
def State.selectSrc (s : State) : Selection :=
  match s.wire with
  | [] => .idle
  | u :: _ =>
    match decode s.mode (.wire u) with
    | .ok i => .run i
    | .error _ => .deliver (wireBytes u)

/-- SYNC's turn: P_LOWER, CHECK, or the offered event (41_frame_synchronizer R110, 44_lifecycle_control R177,
43_latest_value_store R156). No two of the three are enabled together. -/
def State.selectSync (s : State) : Selection :=
  if s.LowerPReady then .run .pLower
  else if s.CheckReady then .run .check
  else
    match s.source with
    | [] => .idle
    | w :: _ => selectDecoded (decode s.mode (.src w))

/-- STORE's turn on the publish side (43_latest_value_store R155, R157). -/
def State.selectStoreP (s : State) : Selection :=
  if s.ServePReady then .run .sServeP else if s.ClearPReady then .run .sClearP else .idle

/-- STORE's turn on the take side (43_latest_value_store R159, R161). -/
def State.selectStoreC (s : State) : Selection :=
  if s.ServeCReady then .run .sServeC else if s.ClearCReady then .run .sClearC else .idle

/-- HOST's turn to issue: the next word at its port (44_lifecycle_control R182). -/
def State.selectHostIssue (s : State) : Selection :=
  match s.hostOps with
  | [] => .idle
  | w :: _ => selectDecoded (decode s.mode (.host w))

/-- HOST's turn to return from STOP or from TAKE (44_lifecycle_control R176, 43_latest_value_store R160). -/
def State.selectHostReturn (s : State) : Selection :=
  if s.StopRetReady then .run .stopRet else if s.LowerCReady then .run .cLower else .idle

/-- RST's turn: RESET when the input is 1 (30_encoding R75). -/
def State.selectRst (s : State) : Selection :=
  match decode s.mode (.rst s.rst) with
  | .ok i => .run i
  | .error _ => .idle

/-- The operation an agent selects with its turn. -/
def State.select (s : State) : Turn → Selection
  | .src => s.selectSrc
  | .sync => s.selectSync
  | .storeP => s.selectStoreP
  | .storeC => s.selectStoreC
  | .hostIssue => s.selectHostIssue
  | .hostReturn => s.selectHostReturn
  | .rst => s.selectRst

/-- A rejected word stops the machine: a host word in Stopping overlaps STOP (44_lifecycle_control R182), a byte with
`cnt` above 18 meets no row (10_state R22). The other two are never selected: SRC delivers what is not a frame, and an
input of 0 is no RESET. -/
def rejected (s : State) : DecodeError → StepOutcome
  | .hostOperationInProgress => .refused .hostOverlap
  | .countOutOfRange => .fault .countOutOfRange
  | .noReset => .next s.quiet
  | .notAFrame => .next s.quiet

/-- What a selection does to the state. -/
def State.perform (s : State) : Selection → StepOutcome
  | .idle => .next s.quiet
  | .run i => exec i s
  | .deliver bytes => .next (s.deliver bytes)
  | .reject e => rejected s e

/-- One turn of one agent. -/
def State.agentStep (s : State) (t : Turn) : StepOutcome := s.perform (s.select t)

/-- The agent whose turn is next: the head of the fixed turns, and past their end the free interleaving (00_scope R10,
43_latest_value_store R162; log 2). -/
def State.nextTurn (s : State) : Turn :=
  match s.turns with
  | t :: _ => t
  | [] => Config.schedule s.tick

/-- The turn is taken from the interleaving (log 2). -/
def State.advance (s : State) : State := { s with turns := s.turns.tail, tick := s.tick + 1 }

/-- The state with this word at the head of its port, the port's agent next, and the machine ready for it in the mode
`tableMode` names (log 14): for a source word SYNC is ready to accept (41_frame_synchronizer R110), for a host word no
operation is in progress and the take handshake is idle (44_lifecycle_control R182, R179). -/
def State.present (s : State) : PortWord → State
  | .src w =>
    { s with
      source := w :: s.source
      turns := .sync :: s.turns
      loopAlive := true
      syncState := (tableMode (.src w)).sync
      cnt := (tableMode (.src w)).cnt
      armed := (tableMode (.src w)).sync == .seekFirst
      pReq := false
      pAck := false }
  | .host w =>
    { s with
      hostOps := w :: s.hostOps
      turns := .hostIssue :: s.turns
      life := (tableMode (.host w)).life
      cReq := false
      cAck := false }
  | .rst w => { s with rst := w, turns := .rst :: s.turns }
  | .wire u => { s with wire := u :: s.wire, turns := .src :: s.turns }

end Sys2Proof.Machine
end

