-- ==== Sys2Proof/Machine/Step.lean ====
section
/-! DEFINITION. Step.lean: the step function, one turn of the agent that is next (00_scope R10), and how the host stores
one instruction's word where the next step takes it. -/

namespace Sys2Proof.Machine

/-- One step of the machine: the turn of the agent that is next (00_scope R10). -/
def step (s : State) : Host.Outcome State Fault Refusal := s.advance.agentStep s.nextTurn

/-- The state with the instruction of these bits at its port and its agent next (log 14); a state for which no word has
these bits is left as it is. -/
def State.withFetchWord (s : State) (nbits w : Nat) : State :=
  match portWordOfBits nbits w with
  | some p => s.present p
  | none => s

end Sys2Proof.Machine
end

