-- ==== Sys2Proof/Machine/Listing.lean ====
section
/-! DEFINITION. Listing.lean: the spec's notation for event streams (30_encoding R84 to R86): its lines and their words,
its pseudo-instructions, and the sequential schedule a listing denotes. -/

namespace Sys2Proof.Machine

/-- `encode_frame`: the frame with a fresh checksum (30_encoding R86). -/
def encodeFrame (r : Record) : List Byte := frameBytes r (crc8 (encodePayload r).toList)

/-- One line of a listing, one input (30_encoding R84). -/
inductive Line where
  | b (data : Byte)
  | to
  | fatal
  | start (openOk : Bool)
  | stop
  | take
  | stat
  | reset
deriving DecidableEq, Repr

/-- The input word of a line (30_encoding R84). -/
def Line.word : Line → PortWord
  | .b data => .src (byteWord data)
  | .to => .src timeoutWord
  | .fatal => .src fatalWord
  | .start openOk => .host (hostWord 0 (BitVec.ofBool openOk))
  | .stop => .host 0b010
  | .take => .host 0b100
  | .stat => .host 0b110
  | .reset => .rst 1

/-- `BYTES` (30_encoding R85). -/
def bytesLines (bytes : List Byte) : List Line := bytes.map .b

/-- `FRAME` as a pseudo-instruction (30_encoding R85). -/
def frameLines (r : Record) : List Line := bytesLines (encodeFrame r)

/-- `FRAMEX`: a frame with the byte at offset `k` replaced by `v` (30_encoding R85). -/
def frameXLines (r : Record) (k : Nat) (v : Byte) : List Line := bytesLines ((encodeFrame r).set k v)

/-- The outcome of a listing: the state at its end and the outputs of every step taken, in order. -/
abbrev TracedOutcome := Host.Outcome (State × List Outputs) Fault Refusal

/-- An agent with an enabled internal step (30_encoding R84): SYNC's P_LOWER or CHECK, STORE's steps, HOST's returns. The
order among them is the model's (log 25). -/
def State.internalTurn (s : State) : Option Turn :=
  if s.LowerPReady ∨ s.CheckReady then some .sync
  else if s.ServePReady ∨ s.ClearPReady then some .storeP
  else if s.ServeCReady ∨ s.ClearCReady then some .storeC
  else if s.StopRetReady ∨ s.LowerCReady then some .hostReturn
  else none

/-- All enabled internal steps run to completion, at most `n` of them (30_encoding R84). -/
def settle : Nat → State × List Outputs → TracedOutcome
  | 0, p => .next p
  | n + 1, (s, outs) =>
    match s.internalTurn with
    | none => .next (s, outs)
    | some t =>
      match s.agentStep t with
      | .next s' => settle n (s', outs ++ [s'.out])
      | .fault r => .fault r
      | .refused r => .refused r

/-- The word of a line is placed last at its port. -/
def State.offer (s : State) : PortWord → State
  | .src w => { s with source := s.source ++ [w] }
  | .host w => { s with hostOps := s.hostOps ++ [w] }
  | .rst w => { s with rst := w }
  | .wire u => { s with wire := s.wire ++ [u] }

/-- The agent that takes the word of a port. -/
def portTurn : PortWord → Turn
  | .src _ => .sync
  | .host _ => .hostIssue
  | .rst _ => .rst
  | .wire _ => .src

/-- One line under the sequential schedule: the input is offered and taken, and then every internal step it enables runs
to completion (30_encoding R84). Eight internal steps are the most that can follow one another: two handshakes of three,
one CHECK and one STOP_RET. The rule is silent on a line begun while an internal step is enabled or an input already waits at
the line's port: that the line's one turn then goes to what the agent takes first, and its own word stays at the port, is the
model's choice (log 26). -/
def runLine (l : Line) (s : State) : TracedOutcome :=
  match (s.offer l.word).agentStep (portTurn l.word) with
  | .next s' => settle 8 (s', [s'.out])
  | .fault r => .fault r
  | .refused r => .refused r

/-- A listing under the sequential schedule (30_encoding R84), begun from the state as it stands: internal steps already
enabled are not run first (log 26). -/
def runListing : List Line → State → TracedOutcome
  | [], s => .next (s, [])
  | l :: ls, s =>
    match runLine l s with
    | .next (s', outs) =>
      match runListing ls s' with
      | .next (t, more) => .next (t, outs ++ more)
      | .fault r => .fault r
      | .refused r => .refused r
    | .fault r => .fault r
    | .refused r => .refused r

end Sys2Proof.Machine
end

