-- ==== Sys2Proof/Safety.lean ====
section
/-! DEFINITION. Safety.lean: the terms in which claims about the machine are stated: the invariant of 10_state R40, the
parts of the state by owner, the transition table of 41_frame_synchronizer R127, and where the machine is ready for a
frame. -/

namespace Sys2Proof

/-! ## Families of operations -/

/-- The operations of 41_frame_synchronizer that accept a source event: the SRC rows but SRC.RSVD. -/
def Instr.isAccept : Instr → Bool
  | .sfMark0 | .sfSkip _ | .sfIdle _ | .ssMark1 | .ssDrop _ | .ssTmo _ | .rlLen | .rlBadlen _ | .rlTmo _ => true
  | .rbStore _ | .rbLast _ | .rbTmo _ | .xFatal _ => true
  | .srcRsvd _ | .startOk | .startFail | .startRej _ | .stop _ | .stopIdle _ | .take _ | .stat _ | .reset => false
  | .frame _ _ | .check | .stopRet | .pRaise _ | .sServeP | .pLower | .sClearP | .cRaise | .sServeC | .cLower => false
  | .sClearC | .crcInit | .crcStep _ | .decode | .publish _ | .takeAbs => false

/-- The host operations: the HOST rows. -/
def Instr.isHostOp : Instr → Bool
  | .startOk | .startFail | .startRej _ | .stop _ | .stopIdle _ | .take _ | .stat _ => true
  | .sfMark0 | .sfSkip _ | .sfIdle _ | .ssMark1 | .ssDrop _ | .ssTmo _ | .rlLen | .rlBadlen _ | .rlTmo _ => false
  | .rbStore _ | .rbLast _ | .rbTmo _ | .xFatal _ | .srcRsvd _ | .reset => false
  | .frame _ _ | .check | .stopRet | .pRaise _ | .sServeP | .pLower | .sClearP | .cRaise | .sServeC | .cLower => false
  | .sClearC | .crcInit | .crcStep _ | .decode | .publish _ | .takeAbs => false

end Sys2Proof

namespace Sys2Proof.Machine

/-- The invariant of the state: clauses (a) to (g) and (i) of 10_state R40, and the two facts about the handshakes that
its clause (h) and 44_lifecycle_control R182 rest on. -/
structure State.Inv (s : State) : Prop where
  /-- R40 (a). -/
  count_le : s.cnt ≤ 18
  /-- R40 (b). -/
  count_in_body : s.cnt ≠ 0 → s.syncState = .readBody
  /-- R40 (c). -/
  armed_seeking : s.armed = true → s.syncState = .seekFirst ∧ s.loopAlive = true
  /-- R40 (d). -/
  dead_clean : s.loopAlive = false → s.syncState = .seekFirst ∧ s.cnt = 0 ∧ s.armed = false
  /-- R40 (e). -/
  alive_life : s.loopAlive = true → s.life = .running ∨ s.life = .stopping
  /-- R40 (f). -/
  fatal_dead : s.fatal = true → s.loopAlive = false
  /-- R40 (g). -/
  run_running : s.runFlag = true → s.life = .running
  /-- R40 (i). -/
  idle_clean : s.life = .idle → s.loopAlive = false ∧ s.runFlag = false ∧ s.fatal = false
  /-- While a publish is in flight the loop stands at the top, unarmed (43_latest_value_store R153). -/
  publish_holds : s.pReq = true ∨ s.pAck = true → s.loopAlive = true ∧ s.syncState = .seekFirst ∧ s.armed = false
  /-- STOP and TAKE are never in progress together (44_lifecycle_control R182). -/
  take_not_stopping : s.cReq = true → s.life ≠ .stopping

/-! ## The state by owner (10_state R20, 60_exceptions R208) -/

/-- The elements only SYNC writes, apart from RESET and START. -/
def State.syncPart (s : State) : (SyncState × BitVec 5 × Bool × Bool) × (Vector Byte 19 × Byte × Bool × Bool × Record) :=
  ((s.syncState, s.cnt, s.armed, s.loopAlive), (s.buf, s.crcAcc, s.fatal, s.pReq, s.pData))

/-- The elements only STORE writes, apart from RESET. -/
def State.storePart (s : State) : Bool × Record × Bool × Bool × Bool × Record :=
  (s.slotValid, s.slotRec, s.pAck, s.cAck, s.cValid, s.cData)

/-- The elements only HOST writes, apart from RESET. -/
def State.hostPart (s : State) : Life × Bool × Bool := (s.life, s.runFlag, s.cReq)

/-- What SYNC may read (60_exceptions R208): its own elements, `run_flag`, `p_ack` and the source's events; and the
model's own counter of free values. -/
def State.syncView (s : State) :
    ((SyncState × BitVec 5 × Bool × Bool) × (Vector Byte 19 × Byte × Bool × Bool × Record)) ×
      (Bool × Bool × List (BitVec 10) × Nat) :=
  (s.syncPart, (s.runFlag, s.pAck, s.source, s.freeCount))

/-! ## The transition table (41_frame_synchronizer R127) -/

/-- The next `(sync_state, cnt)` for an accepted event word, row by row of 41_frame_synchronizer R127. -/
def transition (st : SyncState) (n : BitVec 5) (w : BitVec 10) : SyncState × BitVec 5 :=
  if srcKind w = 0 then
    match st with
    | .seekFirst => if srcData w = 0xAA then (.seekSecond, 0) else (.seekFirst, 0)
    | .seekSecond => if srcData w = 0x55 then (.readLength, 0) else (.seekFirst, 0)
    | .readLength => if srcData w = 0x11 then (.readBody, 0) else (.seekFirst, 0)
    | .readBody => if n < 18 then (.readBody, n + 1) else (.seekFirst, 0)
  else (.seekFirst, 0)

/-! ## Runs -/

/-- `k` steps from a state, stopping at the first fault or refusal: `Host.Core.run` of this machine, at its own types. -/
def runSteps : Nat → State → StepOutcome
  | 0, s => .next s
  | k + 1, s =>
    match step s with
    | .next s' => runSteps k s'
    | .fault r => .fault r
    | .refused r => .refused r

/-! ## Feeding a frame -/

/-- The machine can take a frame from its first byte on: the loop is alive, SYNC stands in SeekFirst, the publish
handshake is idle, and either a read is outstanding or the next CHECK will issue one (41_frame_synchronizer R130). -/
abbrev State.AtFrameStart (s : State) : Prop :=
  s.loopAlive = true ∧ s.syncState = .seekFirst ∧ s.cnt = 0 ∧ s.PublishIdle ∧ (s.armed = true ∨ s.runFlag = true)

/-- The SYNC turns that accept `n` events, the first in SeekFirst: one more for the CHECK where no read is outstanding. -/
def State.turnsToAccept (s : State) (n : Nat) : Nat := if s.armed then n else n + 1

end Sys2Proof.Machine
end

