-- ==== Sys2Proof/Certificates/Slice0/Obligations.lean ====
section
/-! DEFINITION. Obligations.lean: the statements for the provers. Each docstring names the rule of spec/ it formalises.
A free value is stated as `∃`: the register may hold any value. -/

open Sys2Proof Sys2Proof.Machine

/-! ## The Frame Synchronizer -/

/-- R112, R113, R114: what each event does in SeekFirst, for every data byte the row admits. -/
def Obligations.SeekFirstEventsRun : Prop :=
  ∀ s : State, s.InReady → s.syncState = .seekFirst →
    (decode s.mode (.src 0x0AA) = .ok .sfMark0 ∧
      exec .sfMark0 s = .next { s with
        source := s.source.tail, syncState := .seekSecond, armed := false, out := { evt := some .okQuiet } }) ∧
    (∀ data : Byte, data ≠ 0xAA →
      decode s.mode (.src (srcWord 0 data)) = .ok (.sfSkip data) ∧
      exec (.sfSkip data) s = .next { s with
        source := s.source.tail, syncState := .seekFirst, armed := false, out := { evt := some (.skip data) } }) ∧
    (∀ ignored : Byte,
      decode s.mode (.src (srcWord 1 ignored)) = .ok (.sfIdle ignored) ∧
      exec (.sfIdle ignored) s = .next { s with
        source := s.source.tail, syncState := .seekFirst, armed := false, out := { evt := some .okQuiet } })

/-- R115, R116, R117: what each event does in SeekSecond; a byte other than 0x55 is dropped, 0xAA too. -/
def Obligations.SeekSecondEventsRun : Prop :=
  ∀ s : State, s.InReady → s.syncState = .seekSecond →
    (decode s.mode (.src 0x055) = .ok .ssMark1 ∧
      exec .ssMark1 s = .next { s with
        source := s.source.tail, syncState := .readLength, out := { evt := some .okQuiet } }) ∧
    (∀ data : Byte, data ≠ 0x55 →
      decode s.mode (.src (srcWord 0 data)) = .ok (.ssDrop data) ∧
      ∃ b n, exec (.ssDrop data) s = .next { s with
        source := s.source.tail, syncState := .seekFirst, cnt := 0, buf := b, freeCount := n,
        out := { evt := some (.eSecond data) } }) ∧
    (∀ ignored : Byte,
      decode s.mode (.src (srcWord 1 ignored)) = .ok (.ssTmo ignored) ∧
      ∃ b n, exec (.ssTmo ignored) s = .next { s with
        source := s.source.tail, syncState := .seekFirst, cnt := 0, buf := b, freeCount := n,
        out := { evt := some (.eShort .seekSecond 0) } })

/-- R118, R119, R120: what each event does in ReadLength; only the length byte 0x11 goes on. -/
def Obligations.ReadLengthEventsRun : Prop :=
  ∀ s : State, s.InReady → s.syncState = .readLength →
    (decode s.mode (.src 0x011) = .ok .rlLen ∧
      exec .rlLen s = .next { s with
        source := s.source.tail, syncState := .readBody, cnt := 0, out := { evt := some .okQuiet } }) ∧
    (∀ data : Byte, data ≠ 0x11 →
      decode s.mode (.src (srcWord 0 data)) = .ok (.rlBadlen data) ∧
      ∃ b n, exec (.rlBadlen data) s = .next { s with
        source := s.source.tail, syncState := .seekFirst, cnt := 0, buf := b, freeCount := n,
        out := { evt := some (.eLength data) } }) ∧
    (∀ ignored : Byte,
      decode s.mode (.src (srcWord 1 ignored)) = .ok (.rlTmo ignored) ∧
      ∃ b n, exec (.rlTmo ignored) s = .next { s with
        source := s.source.tail, syncState := .seekFirst, cnt := 0, buf := b, freeCount := n,
        out := { evt := some (.eShort .readLength 0) } })

/-- R121: every byte is stored while `cnt < 18`, at `buf[cnt]` and nowhere else; no value is examined. -/
def Obligations.BodyByteIsStored : Prop :=
  ∀ (s : State) (data : Byte), s.InReady → s.syncState = .readBody → s.cnt < 18 →
    decode s.mode (.src (srcWord 0 data)) = .ok (.rbStore data) ∧
    ∃ b, exec (.rbStore data) s = .next { s with
        source := s.source.tail, buf := b, cnt := s.cnt + 1, out := { evt := some .okQuiet } } ∧
      (∀ k : Fin 19, b[k.val] = if k.val = s.cnt.toNat then data else s.buf[k.val]) ∧
      (s.cnt + 1).toNat = s.cnt.toNat + 1 ∧ s.cnt + 1 ≤ 18

/-- R122: the 19th byte. Whatever `validate` finds, the machine is back at `(SeekFirst, 0)`; a publish is requested in the
Good case and in no other. -/
def Obligations.LastByteIsJudged : Prop :=
  ∀ (s : State) (data : Byte) (body : Vector Byte 19),
    s.InReady → s.syncState = .readBody → s.cnt = 18 → body = s.buf.set 18 data →
    decode s.mode (.src (srcWord 0 data)) = .ok (.rbLast data) ∧
    ∃ b a n, exec (.rbLast data) s = .next
      (match validate body with
        | .badTrailer => { s with
            source := s.source.tail, syncState := .seekFirst, cnt := 0, buf := b, crcAcc := a, freeCount := n,
            out := { evt := some (.eTrailer body[17] body[18]) } }
        | .badChecksum computed => { s with
            source := s.source.tail, syncState := .seekFirst, cnt := 0, buf := b, crcAcc := a, freeCount := n,
            out := { evt := some (.eChecksum computed body[16]) } }
        | .good => { s with
            source := s.source.tail, syncState := .seekFirst, cnt := 0, buf := b, crcAcc := a, freeCount := n,
            pReq := true, pData := decodePayload (payload body),
            out := { evt := some (.frameOk (decodePayload (payload body))) } })

/-- R123: `validate` judges the trailer `B[17..18]` before the checksum of `B[0..15]`, for every table. -/
def Obligations.TrailerIsJudgedBeforeChecksum : Prop :=
  ∀ (table : Byte → Byte) (b : Vector Byte 19) (sum : Byte),
    sum = crc8With table [b[0], b[1], b[2], b[3], b[4], b[5], b[6], b[7], b[8], b[9], b[10], b[11], b[12], b[13], b[14], b[15]] →
    (validateWith table b = .badTrailer ↔ ¬(b[17] = 0x55 ∧ b[18] = 0xAA)) ∧
    (∀ computed, validateWith table b = .badChecksum computed ↔
      b[17] = 0x55 ∧ b[18] = 0xAA ∧ sum ≠ b[16] ∧ computed = sum) ∧
    (validateWith table b = .good ↔ b[17] = 0x55 ∧ b[18] = 0xAA ∧ sum = b[16])

/-- R124: a timeout at any point of the body abandons the attempt. -/
def Obligations.BodyTimeoutAborts : Prop :=
  ∀ (s : State) (ignored : Byte), s.InReady → s.syncState = .readBody → s.cnt ≤ 18 →
    decode s.mode (.src (srcWord 1 ignored)) = .ok (.rbTmo ignored) ∧
    ∃ b n, exec (.rbTmo ignored) s = .next { s with
      source := s.source.tail, syncState := .seekFirst, cnt := 0, buf := b, freeCount := n,
      out := { evt := some (.eShort .readBody s.cnt) } }

/-- R125: a transport-fatal event ends the loop, in every phase; the slot and `life` stay. -/
def Obligations.FatalEventEndsTheLoop : Prop :=
  ∀ (s : State) (ignored : Byte), s.InReady →
    decode s.mode (.src (srcWord 2 ignored)) = .ok (.xFatal ignored) ∧
    ∃ b n, exec (.xFatal ignored) s = .next { s with
      source := s.source.tail, fatal := true, loopAlive := false, armed := false, syncState := .seekFirst, cnt := 0,
      buf := b, freeCount := n, out := { evt := some (.eFatal s.syncState s.cnt) } }

/-- R129: a word of kind 3 has no meaning and is refused (95_test_vectors O21, S19). That it is refused in every state, also
where SYNC is not ready to accept an event, is the model's choice (log 12); SYNC's turn on it refuses, so it is not consumed. -/
def Obligations.ReservedKindIsRefused : Prop :=
  ∀ (s : State) (data : Byte) (rest : List (BitVec 10)),
    (∀ m, decode m (.src (srcWord 3 data)) = .ok (.srcRsvd data)) ∧
    exec (.srcRsvd data) s = .refused .reservedSourceWord ∧
    (s.source = srcWord 3 data :: rest → s.nextTurn = .sync → ¬s.LowerPReady → ¬s.CheckReady →
      step s = .refused .reservedSourceWord)

/-- R110: an event is accepted exactly when the loop is alive, the publish handshake is idle, and a read is outstanding or
the phase is not SeekFirst; accepted, it is consumed and a label is emitted. The last clause is the model's choice (log 3):
otherwise SYNC waits, in a step of its own in which nothing happens. -/
def Obligations.EventIsAcceptedExactlyWhenReady : Prop :=
  ∀ (s : State) (i : Instr), i.isAccept = true → i.selectedIn s.mode = true →
    ∃ t, exec i s = .next t ∧
      (s.loopAlive = true ∧ (s.pReq = false ∧ s.pAck = false) ∧ (s.syncState ≠ .seekFirst ∨ s.armed = true) →
        t.source = s.source.tail ∧ t.out.evt ≠ none) ∧
      (¬(s.loopAlive = true ∧ (s.pReq = false ∧ s.pAck = false) ∧ (s.syncState ≠ .seekFirst ∨ s.armed = true)) →
        t = s.quiet)

/-- R127: for every accepted event word, the operation it selects moves `(sync_state, cnt)` as the transition table says. -/
def Obligations.PhaseMovesByTheTransitionTable : Prop :=
  ∀ (s : State) (w : BitVec 10) (i : Instr), s.InReady → s.Inv → srcKind w ≠ 3 → decode s.mode (.src w) = .ok i →
    ∃ t, exec i s = .next t ∧ (t.syncState, t.cnt) = transition s.syncState s.cnt w

/-- R177: CHECK arms a read when the run flag is 1 and ends the loop when it is 0. -/
def Obligations.CheckSamplesTheRunFlag : Prop :=
  ∀ s : State, s.CheckReady →
    (s.runFlag = true → exec .check s = .next { s with armed := true, out := {} }) ∧
    (s.runFlag = false → exec .check s = .next { s with loopAlive := false, out := { evt := some .loopExit } })

/-! ## Lifecycle and host operations -/

/-- R171, R172, R173: START in Idle succeeds or fails by `open_ok`; elsewhere it is rejected and changes nothing. -/
def Obligations.StartReturnsByMode : Prop :=
  ∀ s : State, ¬s.HostBusy →
    (s.life = .idle →
      decode s.mode (.host 0b001) = .ok .startOk ∧
      exec .startOk s = .next { s with
        hostOps := s.hostOps.tail, runFlag := true, loopAlive := true, syncState := .seekFirst, cnt := 0, armed := false,
        life := .running, out := { hostRet := some (.started true) } }) ∧
    (s.life = .idle →
      decode s.mode (.host 0b000) = .ok .startFail ∧
      exec .startFail s = .next { s with
        hostOps := s.hostOps.tail, out := { evt := some .eOpen, hostRet := some (.started false) } }) ∧
    (∀ openOk : BitVec 1, s.life = .running ∨ s.life = .stopped →
      decode s.mode (.host (hostWord 0 openOk)) = .ok (.startRej openOk) ∧
      exec (.startRej openOk) s = .next { s with
        hostOps := s.hostOps.tail, out := { evt := some (.eStart s.life), hostRet := some (.started false) } })

/-- R174, R175, R176: STOP in Running waits in Stopping for STOP_RET, which needs the loop ended and pulses `close`; in
Idle and Stopped it returns at once without the pulse. The last clause is the model's choice (log 3): where STOP_RET is not
enabled it waits, in a step in which nothing happens. -/
def Obligations.StopReturnsByMode : Prop :=
  ∀ (s : State) (arg : BitVec 1),
    (¬s.HostBusy → s.life = .running →
      decode s.mode (.host (hostWord 1 arg)) = .ok (.stop arg) ∧
      exec (.stop arg) s = .next { s with
        hostOps := s.hostOps.tail, runFlag := false, life := .stopping, out := {} }) ∧
    (¬s.HostBusy → s.life = .idle ∨ s.life = .stopped →
      decode s.mode (.host (hostWord 1 arg)) = .ok (.stopIdle arg) ∧
      exec (.stopIdle arg) s = .next { s with
        hostOps := s.hostOps.tail, life := .stopped, out := { hostRet := some .stopped } }) ∧
    (s.life = .stopping → s.loopAlive = false →
      exec .stopRet s = .next { s with life := .stopped, out := { hostRet := some .stopped, close := true } }) ∧
    (s.life ≠ .stopping ∨ s.loopAlive = true → exec .stopRet s = .next s.quiet)

/-- R181: STAT returns `(life, loop_alive, fatal)` and changes no state. -/
def Obligations.StatReturnsTheStatus : Prop :=
  ∀ (s : State) (arg : BitVec 1), ¬s.HostBusy →
    decode s.mode (.host (hostWord 3 arg)) = .ok (.stat arg) ∧
    exec (.stat arg) s = .next { s with
      hostOps := s.hostOps.tail, out := { hostRet := some (.status s.life s.loopAlive s.fatal) } }

/-- R180: RESET, in any state, gives every element its reset value; the registers that hold no value afterwards may
hold anything. What waits at the ports stays there and the input falls: the model's choice, log 16. -/
def Obligations.ResetRestoresEveryElement : Prop :=
  ∀ s : State, decode s.mode (.rst 1) = .ok .reset ∧
    ∃ t, exec .reset s = .next t ∧
      (t.syncState = .seekFirst ∧ t.cnt = 0 ∧ t.armed = false ∧ t.loopAlive = false ∧ t.fatal = false ∧
        t.runFlag = false ∧ t.life = .idle) ∧
      (t.slotValid = false ∧ t.pReq = false ∧ t.pAck = false ∧ t.cReq = false ∧ t.cAck = false) ∧
      t.out = {} ∧
      (t.source = s.source ∧ t.hostOps = s.hostOps ∧ t.wire = s.wire ∧ t.rst = 0 ∧ t.turns = s.turns ∧ t.tick = s.tick)

/-- R39: the values of the state after reset that the spec gives. -/
def Obligations.ResetStateHasTheSpecsValues : Prop :=
  State.reset.syncState = .seekFirst ∧ State.reset.cnt = 0 ∧ State.reset.armed = false ∧ State.reset.loopAlive = false ∧
    State.reset.fatal = false ∧ State.reset.runFlag = false ∧ State.reset.life = .idle ∧ State.reset.slotValid = false ∧
    State.reset.pReq = false ∧ State.reset.pAck = false ∧ State.reset.cReq = false ∧ State.reset.cAck = false

/-- R182: a host operation issued while another is in progress is refused, whichever it is and however it is reached;
RESET is exempt. -/
def Obligations.HostOperationsDoNotOverlap : Prop :=
  ∀ s : State, s.HostBusy →
    (∀ i : Instr, i.isHostOp = true → exec i s = .refused .hostOverlap) ∧
    (∀ w rest, s.hostOps = w :: rest → s.nextTurn = .hostIssue → step s = .refused .hostOverlap) ∧
    (∃ t, exec .reset s = .next t ∧ ¬t.HostBusy)

/-- R158: TAKE's issue is C_RAISE: with the take handshake idle and no host operation in progress the request goes up; the
word leaves the host port with TAKE. -/
def Obligations.TakeIsIssuedByRaisingTheRequest : Prop :=
  ∀ (s : State) (arg : BitVec 1), ¬s.HostBusy → s.TakeIdle →
    decode s.mode (.host (hostWord 2 arg)) = .ok (.take arg) ∧
    exec (.take arg) s = .next { s with hostOps := s.hostOps.tail, cReq := true, out := {} } ∧
    exec .cRaise s = .next { s with cReq := true, out := {} }

/-! ## The Latest-Value Store -/

/-- R151, R152: the two abstract operations always run: PUBLISH overwrites the slot, TAKE.ABS returns its content and
leaves it empty; on an empty slot it changes nothing. -/
def Obligations.AbstractStoreOperationsRun : Prop :=
  ∀ (s : State) (r : Record),
    exec (.publish r) s = .next { s with slotValid := true, slotRec := r, out := {} } ∧
    (s.slotValid = true → ∃ v n, exec .takeAbs s = .next { s with
      slotValid := false, slotRec := v, freeCount := n, out := { hostRet := some (.taken (some s.slotRec)) } }) ∧
    (s.slotValid = false → exec .takeAbs s = .next { s with out := { hostRet := some (.taken none) } })

/-- The effects of R153, R155, R156 and R157: the four steps of the publish handshake, each in its own of the handshake's
four phases. -/
def Obligations.PublishHandshakeStepsRun : Prop :=
  ∀ (s : State) (r : Record),
    (s.pReq = false → s.pAck = false → exec (.pRaise r) s = .next { s with pData := r, pReq := true, out := {} }) ∧
    (s.pReq = true → s.pAck = false →
      exec .sServeP s = .next { s with slotValid := true, slotRec := s.pData, pAck := true, out := {} }) ∧
    (s.pReq = true → s.pAck = true →
      ∃ v n, exec .pLower s = .next { s with pReq := false, pData := v, freeCount := n, out := {} }) ∧
    (s.pReq = false → s.pAck = true → exec .sClearP s = .next { s with pAck := false, out := {} })

/-- R159, R160, R161: the steps of the take handshake after the request: the store's serve step captures the slot whole
and empties it, C_LOWER returns what was captured, S_CLEAR_C ends the handshake. -/
def Obligations.TakeHandshakeStepsRun : Prop :=
  ∀ s : State,
    (s.cReq = true → s.cAck = false →
      ∃ c v n, exec .sServeC s = .next { s with
          cValid := s.slotValid, cData := c, slotValid := false, slotRec := v, freeCount := n, cAck := true, out := {} } ∧
        (s.slotValid = true → c = s.slotRec)) ∧
    (s.cReq = true → s.cAck = true →
      exec .cLower s = .next { s with
        cReq := false, out := { hostRet := some (.taken (if s.cValid then some s.cData else none)) } }) ∧
    (s.cReq = false → s.cAck = true → exec .sClearC s = .next { s with cAck := false, out := {} })

/-- R179: a TAKE runs to its return in three turns and returns what the slot held when it was served; the slot is empty
afterwards, whatever it held. -/
def Obligations.TakeReturnsTheSlotAndEmptiesIt : Prop :=
  ∀ (s : State) (arg : BitVec 1) (ops : List (BitVec 3)) (ts : List Turn),
    ¬s.HostBusy → s.TakeIdle → s.hostOps = hostWord 2 arg :: ops →
    s.turns = [.hostIssue, .storeC, .hostReturn] ++ ts →
    ∃ t, runSteps 3 s = .next t ∧
      t.out.hostRet = some (.taken s.slot) ∧ t.slot = none ∧ t.hostOps = ops ∧ t.turns = ts ∧
      t.syncPart = s.syncPart ∧ t.life = s.life ∧ t.runFlag = s.runFlag ∧ t.pAck = s.pAck ∧
      t.cReq = false ∧ t.cAck = true

/-- R152, the property "two consecutive `take()` calls with no intervening `publish()` return a value then empty": the
second of two TAKEs with no publish between returns nothing. -/
def Obligations.SecondTakeReturnsNothing : Prop :=
  ∀ (s : State) (a b : BitVec 1) (ops : List (BitVec 3)) (ts : List Turn) (r : Record),
    ¬s.HostBusy → s.TakeIdle → s.slot = some r → s.hostOps = hostWord 2 a :: hostWord 2 b :: ops →
    s.turns = [.hostIssue, .storeC, .hostReturn, .storeC, .hostIssue, .storeC, .hostReturn] ++ ts →
    (∃ t, runSteps 3 s = .next t ∧ t.out.hostRet = some (.taken (some r))) ∧
    ∃ t, runSteps 7 s = .next t ∧ t.out.hostRet = some (.taken none) ∧ t.slot = none

/-- R162: with both requests pending either side may be served first, and each order gives the result the spec works out
(95_test_vectors V10): the take first returns the old content and the new Record stays; the publish first replaces the
old content and the take returns the new Record. -/
def Obligations.EitherSideMayBeServedFirst : Prop :=
  ∀ (s : State) (ts : List Turn), s.ServePReady → s.ServeCReady →
    (s.turns = [.storeC, .storeP] ++ ts →
      ∃ t, runSteps 2 s = .next t ∧ t.takeResult = s.slot ∧ t.slot = some s.pData ∧ t.LowerCReady ∧ t.LowerPReady) ∧
    (s.turns = [.storeP, .storeC] ++ ts →
      ∃ t, runSteps 2 s = .next t ∧ t.takeResult = some s.pData ∧ t.slot = none ∧ t.LowerCReady ∧ t.LowerPReady)

/-- R163: the machine refines the source's one-cell store. Every step, seen through the slot, is a PUBLISH of `p_data`
(with its acknowledge), a TAKE.ABS whose result is the one captured for TAKE (with its acknowledge), a RESET, or leaves the
slot alone. -/
def Obligations.EveryStepIsAPublishATakeOrSilent : Prop :=
  ∀ s t : State, step s = .next t →
    (s.nextTurn = .storeP ∧ s.ServePReady ∧ t.slot = some s.pData ∧ t.pAck = true) ∨
    (s.nextTurn = .storeC ∧ s.ServeCReady ∧ t.slot = none ∧ t.takeResult = s.slot ∧ t.cAck = true) ∨
    (s.nextTurn = .rst ∧ t.slot = none) ∨
    (t.slotValid = s.slotValid ∧ t.slotRec = s.slotRec)

/-- R154: while `p_req` is 1, `p_data` does not change, whichever agent steps. -/
def Obligations.PublishDataIsStableWhileRequested : Prop :=
  ∀ s t : State, step s = .next t → s.pReq = true → t.pReq = true → t.pData = s.pData

/-- R159, its last sentence: what S_SERVE_C captured stays until the next S_SERVE_C, whichever agents step meanwhile, apart
from RESET. -/
def Obligations.TakeDataIsStableBetweenServes : Prop :=
  ∀ s t : State, step s = .next t → s.nextTurn ≠ .rst → ¬(s.nextTurn = .storeC ∧ s.ServeCReady) →
    t.cValid = s.cValid ∧ t.cData = s.cData

/-- R40 (h): while the publish handshake is not idle, SYNC's turn takes no step but P_LOWER: nothing but `p_req`, `p_data`
and the model's own fields changes, and those only where P_LOWER is enabled. That SYNC otherwise waits, in a step of its own
in which nothing happens, is the model's choice (log 3). -/
def Obligations.PublishInFlightHoldsSyncStill : Prop :=
  ∀ s t : State, step s = .next t → s.nextTurn = .sync → s.pReq = true ∨ s.pAck = true →
    if s.LowerPReady then ∃ v n, t = { s.advance with pReq := false, pData := v, freeCount := n, out := {} }
    else t = s.advance.quiet

/-! ## The Checksum Engine and the Payload Codec -/

/-- R101, R102: CRC.INIT clears the accumulator; CRC.STEP replaces it by the table's entry at its exclusive-or with the
byte. -/
def Obligations.ChecksumMicroOperationsRun : Prop :=
  ∀ (s : State) (b : Byte),
    exec .crcInit s = .next { s with crcAcc := 0x00, out := {} } ∧
    exec (.crcStep b) s = .next { s with crcAcc := Config.crcTable (s.crcAcc ^^^ b), out := {} }

/-- R100: CRC.INIT followed by one CRC.STEP for each byte, in order, leaves `crc8` of the bytes in the accumulator and
changes nothing else but the outputs. -/
def Obligations.ChecksumStepsComputeCrc8 : Prop :=
  ∀ (s : State) (bytes : List Byte),
    (bytes.foldl (fun o b => match o with | .next s => exec (.crcStep b) s | o => o) (exec .crcInit s)) =
      .next { s with crcAcc := crc8 bytes, out := {} }

/-- R107 (a), (b): for any table, `crc8` of no bytes is 0x00, and `crc8` of `s ++ t` continues over `t` from `crc8` of `s`. -/
def Obligations.ChecksumContinuesOverAppend : Prop :=
  ∀ table : Byte → Byte, crc8With table [] = 0x00 ∧
    (∀ b, crc8With table [b] = table b) ∧
    ∀ u v : List Byte, crc8With table (u ++ v) = v.foldl (crcStepWith table) (crc8With table u)

/-- R107 (e): if the table is a permutation, two sequences of equal length that differ in exactly one byte have different
checksums. The hypothesis on the table is the rule's own. -/
def Obligations.PermutationTableDetectsOneByte : Prop :=
  ∀ (table : Byte → Byte) (u v : List Byte) (a b : Byte), Function.Bijective table → a ≠ b →
    crc8With table (u ++ a :: v) ≠ crc8With table (u ++ b :: v)

/-- R140: DECODE reads the five little-endian fields of `buf[0..15]` and changes no state. That it runs by itself and drives
its Record on an output of the codec's, `out.codec`, is the model's choice (log 18): the spec runs it inside RB.LAST. -/
def Obligations.DecodeReadsLittleEndianFields : Prop :=
  ∀ s : State, ∃ r : Record, exec .decode s = .next { s with out := { codec := some r } } ∧
    r = decodePayload (payload s.buf) ∧
    r.x.toNat = s.buf[0].toNat + 256 * s.buf[1].toNat ∧
    r.y.toNat = s.buf[2].toNat + 256 * s.buf[3].toNat ∧
    r.w.toNat = s.buf[4].toNat + 256 * s.buf[5].toNat ∧
    r.h.toNat = s.buf[6].toNat + 256 * s.buf[7].toNat ∧
    r.timestamp.toNat = s.buf[8].toNat + 256 * s.buf[9].toNat + 256 ^ 2 * s.buf[10].toNat + 256 ^ 3 * s.buf[11].toNat +
      256 ^ 4 * s.buf[12].toNat + 256 ^ 5 * s.buf[13].toNat + 256 ^ 6 * s.buf[14].toNat + 256 ^ 7 * s.buf[15].toNat

/-- R143: `decode` and `encode_payload` are inverse bijections between Records and 16-byte payloads. -/
def Obligations.PayloadCodecIsABijection : Prop :=
  (∀ r : Record, decodePayload (encodePayload r) = r) ∧ (∀ p : Vector Byte 16, encodePayload (decodePayload p) = p)

/-- R73: the places of the fields in the 128-bit packing, which is invertible, and the packed decode of a payload is the
little-endian reading of its 16 bytes. -/
def Obligations.PackedRecordIsThePayload : Prop :=
  (∀ r : Record, (packRecord r).extractLsb' 0 16 = r.x ∧ (packRecord r).extractLsb' 16 16 = r.y ∧
    (packRecord r).extractLsb' 32 16 = r.w ∧ (packRecord r).extractLsb' 48 16 = r.h ∧
    (packRecord r).extractLsb' 64 64 = r.timestamp) ∧
  (∀ r : Record, unpackRecord (packRecord r) = r) ∧ (∀ v : BitVec 128, packRecord (unpackRecord v) = v) ∧
    (∀ p : Vector Byte 16, (packRecord (decodePayload p)).toNat = leNat p.toList)

/-! ## Frames -/

/-- R70: a FRAME puts its 22 bytes with the source in wire order, after the events already there: the start marker, the
length 17, the 16 payload bytes, the checksum and the end marker. That they become pending BYTE events in one step of SRC is
the model's, log 15. -/
def Obligations.FrameArrivesAsTwentyTwoBytes : Prop :=
  ∀ (s : State) (r : Record) (c : Byte),
    (∃ p : Vector Byte 16, decodePayload p = r ∧
      exec (.frame r c) s = .next { s with
        source := s.source ++ (([0xAA, 0x55, 0x11] ++ p.toList ++ [c, 0x55, 0xAA]).map (srcWord 0)),
        wire := s.wire.tail, out := {} }) ∧
    wireBytes (frameUnit r c) = frameBytes r c ∧ (frameBytes r c).length = 22

/-- R130: from the top of the loop, with the read issued or about to be, the 22 bytes of a valid frame request exactly one
publish, at the 22nd byte, of the frame's Record; the machine is back in `(SeekFirst, 0)`, and all else but the buffer, the
accumulator, the run of the source and the outputs is as before. The turns are SYNC's alone, uninterrupted (log 2); the rule
holds for any interleaving. -/
def Obligations.ValidFrameRequestsOnePublish : Prop :=
  ∀ (s : State) (r : Record) (rest : List (BitVec 10)) (ts : List Turn),
    s.AtFrameStart → s.source = (encodeFrame r).map byteWord ++ rest →
    s.turns = List.replicate (s.turnsToAccept 22) .sync ++ ts →
    (∀ k, k < s.turnsToAccept 22 → ∃ t, runSteps k s = .next t ∧ t.pReq = false) ∧
    ∃ t, runSteps (s.turnsToAccept 22) s = .next t ∧
      t.pReq = true ∧ t.pData = r ∧ t.pAck = false ∧ t.out = { evt := some (.frameOk r) } ∧
      t.syncState = .seekFirst ∧ t.cnt = 0 ∧ t.armed = false ∧ t.loopAlive = true ∧ t.fatal = s.fatal ∧
      t.source = rest ∧ t.turns = ts ∧ t.storePart = s.storePart ∧ t.hostPart = s.hostPart

/-- R130, as a consumer sees it: the valid frame's Record is the one TAKE returns, once: the next TAKE returns nothing. This
is said of one order of the agents' turns (log 2). -/
def Obligations.ValidFrameIsTakenExactlyOnce : Prop :=
  ∀ (s : State) (r : Record) (rest : List (BitVec 10)) (a b : BitVec 1) (ops : List (BitVec 3)) (ts : List Turn),
    s.AtFrameStart → ¬s.HostBusy → s.TakeIdle → s.source = (encodeFrame r).map byteWord ++ rest →
    s.hostOps = hostWord 2 a :: hostWord 2 b :: ops →
    s.turns = List.replicate (s.turnsToAccept 22) .sync ++ [.storeP, .sync, .storeP] ++
      [.hostIssue, .storeC, .hostReturn, .storeC, .hostIssue, .storeC, .hostReturn] ++ ts →
    (∃ t, runSteps (s.turnsToAccept 22 + 3) s = .next t ∧ t.slot = some r ∧ t.PublishIdle ∧ t.source = rest) ∧
    (∃ t, runSteps (s.turnsToAccept 22 + 6) s = .next t ∧ t.out.hostRet = some (.taken (some r))) ∧
    (∃ t, runSteps (s.turnsToAccept 22 + 10) s = .next t ∧ t.out.hostRet = some (.taken none))

/-- R131: 22 bytes of a frame's form whose checksum byte is not the checksum of their payload request no publish, emit
E_CHECKSUM, and leave `(SeekFirst, 0)` with all 22 consumed, where, the run flag being 1, R130 applies to the next frame. The
first clause says that a valid frame altered at one payload offset has this form, with the checksum byte of the original. The
turns are SYNC's alone, uninterrupted (log 2); the rule holds for any interleaving. -/
def Obligations.MismatchedChecksumIsDiscarded : Prop :=
  (∀ (r : Record) (k : Nat) (v : Byte), 3 ≤ k → k ≤ 18 →
    ∃ r', (encodeFrame r).set k v = frameBytes r' (crc8 (encodePayload r).toList)) ∧
  ∀ (s : State) (r : Record) (c : Byte) (rest : List (BitVec 10)) (ts : List Turn),
    s.AtFrameStart → c ≠ crc8 (encodePayload r).toList → s.source = (frameBytes r c).map byteWord ++ rest →
    s.turns = List.replicate (s.turnsToAccept 22) .sync ++ ts →
    (∀ n, n ≤ s.turnsToAccept 22 → ∃ t, runSteps n s = .next t ∧ t.pReq = false) ∧
    ∃ t, runSteps (s.turnsToAccept 22) s = .next t ∧
      t.out = { evt := some (.eChecksum (crc8 (encodePayload r).toList) c) } ∧
      t.syncState = .seekFirst ∧ t.cnt = 0 ∧ t.loopAlive = true ∧ t.fatal = s.fatal ∧ t.source = rest ∧ t.turns = ts ∧
      t.pData = s.pData ∧ t.storePart = s.storePart ∧ t.hostPart = s.hostPart ∧ (s.runFlag = true → t.AtFrameStart)

/-- R134: a timeout in the middle of the body brings the machine back to `(SeekFirst, 0)` with the loop alive, where, the
run flag being 1, a following valid frame is decoded by R130. -/
def Obligations.TruncatedStreamResynchronizes : Prop :=
  ∀ (s : State) (ignored : Byte) (rest : List (BitVec 10)) (ts : List Turn),
    s.InReady → s.syncState = .readBody → s.cnt ≤ 18 → s.source = srcWord 1 ignored :: rest →
    s.turns = .sync :: ts → ∃ t, step s = .next t ∧ t.pReq = false ∧ t.source = rest ∧
      t.syncState = .seekFirst ∧ t.cnt = 0 ∧ t.loopAlive = true ∧ (s.runFlag = true → t.AtFrameStart)

/-- R227: a doubled first marker byte loses the marker: after `AA AA 55 11`, accepted from the top of the loop, the machine
stands in SeekFirst, not in the body. -/
def Obligations.DoubledFirstMarkerIsNotReexamined : Prop :=
  ∀ (s : State) (rest : List (BitVec 10)) (ts : List Turn),
    s.AtFrameStart → s.armed = true → s.runFlag = true →
    s.source = [byteWord 0xAA, byteWord 0xAA, byteWord 0x55, byteWord 0x11] ++ rest →
    s.turns = List.replicate 6 .sync ++ ts →
    ∃ t, runSteps 6 s = .next t ∧ t.syncState = .seekFirst ∧ t.cnt = 0 ∧ t.source = rest ∧ t.pReq = false ∧
      t.out.evt = some (.skip 0x11)

/-- R135: the spec's worked payload decodes to the worked Record, and with the default table its frame ends in the worked
checksum. -/
def Obligations.WorkedExampleDecodes : Prop :=
  decodePayload #v[0x64, 0x00, 0xC8, 0x00, 0x32, 0x00, 0x3C, 0x00, 0x00, 0x68, 0xE5, 0xCF, 0x8B, 0x01, 0x00, 0x00] =
      { x := 100, y := 200, w := 50, h := 60, timestamp := 1700000000000 } ∧
    crc8With defaultTable [0x64, 0x00, 0xC8, 0x00, 0x32, 0x00, 0x3C, 0x00, 0x00, 0x68, 0xE5, 0xCF, 0x8B, 0x01, 0x00, 0x00] =
      0xE1

/-! ## Whole-machine rules -/

/-- R40: the reset state has the invariant. -/
def Obligations.ResetStateIsInvariant : Prop := State.reset.Inv

/-- R40: every step keeps the invariant, from every state that has it. -/
def Obligations.EveryStepKeepsTheInvariant : Prop := ∀ s t : State, s.Inv → step s = .next t → t.Inv

/-- R64: each element of the state is written only by the agent that owns it (10_state R20): outside RESET, STORE's
elements change only in STORE's turns, HOST's only in HOST's, SYNC's only in SYNC's, but for what START sets in Idle. -/
def Obligations.OnlyTheOwnerWrites : Prop :=
  ∀ s t : State, step s = .next t → s.nextTurn ≠ .rst →
    (s.nextTurn ≠ .storeP → s.nextTurn ≠ .storeC → t.storePart = s.storePart) ∧
    (s.nextTurn ≠ .hostIssue → s.nextTurn ≠ .hostReturn → t.hostPart = s.hostPart) ∧
    (s.nextTurn ≠ .sync → s.nextTurn ≠ .hostIssue → t.syncPart = s.syncPart) ∧
    (s.nextTurn = .hostIssue → s.life ≠ .idle → t.syncPart = s.syncPart) ∧
    (s.nextTurn = .hostIssue → t.syncPart.2 = s.syncPart.2)

/-- 60_exceptions R208, the column "may read": SYNC's turn depends on nothing but what SYNC may read. Two states that agree
there take SYNC's turn to the same kind of outcome and agree there afterwards, with the same outputs. -/
def Obligations.SyncReadsOnlyItsOwnView : Prop :=
  ∀ s₁ s₂ t₁ : State, s₁.syncView = s₂.syncView → s₁.agentStep .sync = .next t₁ →
    ∃ t₂, s₂.agentStep .sync = .next t₂ ∧ t₁.syncView = t₂.syncView ∧ t₁.out = t₂.out

/-- R170: `life` changes only as the table of 44_lifecycle_control says. -/
def Obligations.LifeMovesByTheLifecycleTable : Prop :=
  ∀ s t : State, step s = .next t →
    t.life = s.life ∨
    (s.nextTurn = .rst ∧ t.life = .idle) ∨
    (s.nextTurn = .hostIssue ∧ s.life = .idle ∧ t.life = .running ∧ s.hostOps.head? = some 0b001) ∨
    (s.nextTurn = .hostIssue ∧ s.life = .running ∧ t.life = .stopping ∧ s.hostOps.head?.map hostOp = some 1) ∨
    (s.nextTurn = .hostIssue ∧ s.life = .idle ∧ t.life = .stopped ∧ s.hostOps.head?.map hostOp = some 1) ∨
    (s.nextTurn = .hostReturn ∧ s.life = .stopping ∧ s.loopAlive = false ∧ t.life = .stopped)

/-- R178: outside RESET the loop ends only at a CHECK that reads `run_flag = 0` or at an accepted FATAL event, and it comes
to life only by START in Idle. -/
def Obligations.LoopEndsInTwoWaysOnly : Prop :=
  ∀ s t : State, step s = .next t → s.nextTurn ≠ .rst →
    (s.loopAlive = true → t.loopAlive = false → s.nextTurn = .sync ∧
      ((s.CheckReady ∧ s.runFlag = false) ∨ (s.InReady ∧ s.source.head?.map srcKind = some 2 ∧ t.fatal = true))) ∧
    (s.loopAlive = false → t.loopAlive = true → s.nextTurn = .hostIssue ∧ s.life = .idle ∧ t.life = .running)

/-- R178, R233: once the loop is dead outside Idle it stays so until RESET: no step brings it back and no source event is
consumed. -/
def Obligations.DeadLoopStaysDeadUntilReset : Prop :=
  ∀ s t : State, step s = .next t → s.nextTurn ≠ .rst → s.loopAlive = false → s.life ≠ .idle →
    t.loopAlive = false ∧ t.life ≠ .idle ∧ (t.source = s.source ∨ (s.nextTurn = .src ∧ ∃ ws, t.source = s.source ++ ws))

/-- R30: `fatal` is set only by SYNC's turn on an accepted FATAL event and cleared only by RESET. -/
def Obligations.FatalIsSticky : Prop :=
  ∀ s t : State, step s = .next t →
    (s.fatal = true → t.fatal = false → s.nextTurn = .rst) ∧
    (s.fatal = false → t.fatal = true →
      s.nextTurn = .sync ∧ s.InReady ∧ s.source.head?.map srcKind = some 2)

/-- R63: the source's events are consumed in order, each once: a step leaves them, takes the head in SYNC's turn, or, in
SRC's turn, appends to them. That RST's step too leaves the events waiting at the source is the model's choice (log 16). -/
def Obligations.SourceEventsAreConsumedInOrder : Prop :=
  ∀ s t : State, step s = .next t →
    t.source = s.source ∨
    (s.nextTurn = .sync ∧ s.InReady ∧ ∃ w, s.source = w :: t.source) ∨
    (s.nextTurn = .src ∧ ∃ ws, t.source = s.source ++ ws)

/-- R59 (f): a publish is requested only by a frame that passed every check: SYNC accepted the 19th byte of a body whose
trailer and checksum are right, and the Record is its payload's. -/
def Obligations.OnlyValidatedFramesArePublished : Prop :=
  ∀ s t : State, step s = .next t → s.pReq = false → t.pReq = true →
    s.nextTurn = .sync ∧ s.InReady ∧ s.syncState = .readBody ∧ s.cnt = 18 ∧
    ∃ w, s.source.head? = some w ∧ srcKind w = 0 ∧
      validate (s.buf.set 18 (srcData w)) = .good ∧ t.pData = decodePayload (payload (s.buf.set 18 (srcData w)))

/-- R193: an operation of 41_frame_synchronizer emits exactly one label when it is accepted; CHECK emits LOOP_EXIT or
nothing; START emits E_OPEN, E_START or nothing; no other operation emits a label. -/
def Obligations.LabelsAreEmittedByTheseOperationsOnly : Prop :=
  ∀ (s t : State) (i : Instr), exec i s = .next t →
    (i.isAccept = true → i.selectedIn s.mode = true → s.InReady → t.out.evt ≠ none) ∧
    (i = .check → t.out.evt = none ∨ t.out.evt = some .loopExit) ∧
    (i = .startOk ∨ i = .startFail ∨ (∃ a, i = .startRej a) →
      t.out.evt = none ∨ t.out.evt = some .eOpen ∨ t.out.evt = some (.eStart s.life)) ∧
    (i.isAccept = false → i ≠ .check → i ≠ .startOk → i ≠ .startFail → (∀ a, i ≠ .startRej a) → t.out.evt = none)

/-- R176 with R177: after STOP was issued with a read outstanding, one timeout event lets STOP return: the timeout is
accepted, CHECK reads the run flag as 0 and ends the loop, and STOP_RET pulses `close`. -/
def Obligations.StopReturnsAfterOneTimeout : Prop :=
  ∀ (s : State) (ignored : Byte) (rest : List (BitVec 10)) (ts : List Turn),
    s.AtFrameStart → s.armed = true → s.runFlag = false → s.life = .stopping → s.source = srcWord 1 ignored :: rest →
    s.turns = [.sync, .sync, .hostReturn] ++ ts →
    ∃ t, runSteps 3 s = .next t ∧ t.life = .stopped ∧ t.loopAlive = false ∧ t.armed = false ∧
      t.out = { hostRet := some .stopped, close := true } ∧ t.source = rest ∧ t.storePart = s.storePart

/-- R84: under the sequential schedule the internal steps an input enables run to completion: from any state, at most
eight of them, and then none is enabled. -/
def Obligations.InternalStepsRunToCompletion : Prop :=
  ∀ (s : State) (outs : List Outputs), ∃ t more, settle 8 (s, outs) = .next (t, outs ++ more) ∧ t.internalTurn = none

/-! ## Decode, encode and the step -/

/-- Every well-formed operation that has a word decodes from its own encoding, in every mode its row admits (30_encoding
R79, R80). -/
def Obligations.DecodeOfEncodeIsTheOperation : Prop :=
  ∀ (m : Mode) (i : Instr) (p : PortWord), i.wellFormed = true → i.selectedIn m = true → encode i = some p →
    decode m p = .ok i

/-- Whatever the decoder answers is well-formed, is admitted in the mode, and encodes to the word it was read from: no bit
of a word is dropped, and no two words of a mode share an operation. -/
def Obligations.EncodeOfDecodeIsTheWord : Prop :=
  ∀ (m : Mode) (p : PortWord) (i : Instr), decode m p = .ok i →
    i.wellFormed = true ∧ i.selectedIn m = true ∧ encode i = some p

/-- A step runs the decoded operation: in each agent's turn, the word at its port that decodes to `i` runs as `i`, and an
enabled internal step runs as its row; the turn is taken from the interleaving and nothing else happens around it. -/
def Obligations.StepRunsTheSelectedOperation : Prop :=
  ∀ (s : State) (i : Instr),
    (∀ w rest, s.nextTurn = .sync → ¬s.LowerPReady → ¬s.CheckReady → s.source = w :: rest →
      decode s.mode (.src w) = .ok i → step s = exec i s.advance) ∧
    (∀ w rest, s.nextTurn = .hostIssue → s.hostOps = w :: rest → decode s.mode (.host w) = .ok i →
      step s = exec i s.advance) ∧
    (s.nextTurn = .rst → decode s.mode (.rst s.rst) = .ok i → step s = exec i s.advance) ∧
    (∀ u rest, s.nextTurn = .src → s.wire = u :: rest → decode s.mode (.wire u) = .ok i → step s = exec i s.advance) ∧
    (s.nextTurn = .sync → s.LowerPReady → step s = exec .pLower s.advance) ∧
    (s.nextTurn = .sync → s.CheckReady → step s = exec .check s.advance) ∧
    (s.nextTurn = .storeP → s.ServePReady → step s = exec .sServeP s.advance) ∧
    (s.nextTurn = .storeP → s.ClearPReady → step s = exec .sClearP s.advance) ∧
    (s.nextTurn = .storeC → s.ServeCReady → step s = exec .sServeC s.advance) ∧
    (s.nextTurn = .storeC → s.ClearCReady → step s = exec .sClearC s.advance) ∧
    (s.nextTurn = .hostReturn → s.StopRetReady → step s = exec .stopRet s.advance) ∧
    (s.nextTurn = .hostReturn → ¬s.StopRetReady → s.LowerCReady → step s = exec .cLower s.advance)

/-- Words written out from the tables of 30_encoding R74, R75 and R79 decode to the operations they stand for. -/
def Obligations.SampleWordsDecode : Prop :=
  decode { sync := .seekFirst, cnt := 0, life := .running } (.src 0b0010101010) = .ok .sfMark0 ∧
    decode { sync := .seekSecond, cnt := 0, life := .running } (.src 0b0010101010) = .ok (.ssDrop 0xAA) ∧
    decode { sync := .readLength, cnt := 0, life := .running } (.src 0b0000010001) = .ok .rlLen ∧
    decode { sync := .readBody, cnt := 18, life := .running } (.src 0b0010101010) = .ok (.rbLast 0xAA) ∧
    decode { sync := .readBody, cnt := 5, life := .running } (.src 0b1000000000) = .ok (.xFatal 0) ∧
    decode { sync := .seekFirst, cnt := 0, life := .idle } (.host 0b001) = .ok .startOk ∧
    decode { sync := .seekFirst, cnt := 0, life := .stopped } (.host 0b101) = .ok (.take 1) ∧
    decode { sync := .seekFirst, cnt := 0, life := .idle } (.rst 0b1) = .ok .reset
end

