-- ==== Sys2Proof/Laws/State.lean ====
section
/-! SUPPORT. Laws/State.lean: for each named update of the state and each field, what the field is afterwards. -/

namespace Sys2Proof.Machine

variable (s : State)

/-! ## quiet -/

@[simp] theorem State.quiet_syncState : s.quiet.syncState = s.syncState := rfl
@[simp] theorem State.quiet_cnt : s.quiet.cnt = s.cnt := rfl
@[simp] theorem State.quiet_buf : s.quiet.buf = s.buf := rfl
@[simp] theorem State.quiet_crcAcc : s.quiet.crcAcc = s.crcAcc := rfl
@[simp] theorem State.quiet_armed : s.quiet.armed = s.armed := rfl
@[simp] theorem State.quiet_loopAlive : s.quiet.loopAlive = s.loopAlive := rfl
@[simp] theorem State.quiet_fatal : s.quiet.fatal = s.fatal := rfl
@[simp] theorem State.quiet_runFlag : s.quiet.runFlag = s.runFlag := rfl
@[simp] theorem State.quiet_life : s.quiet.life = s.life := rfl
@[simp] theorem State.quiet_slotValid : s.quiet.slotValid = s.slotValid := rfl
@[simp] theorem State.quiet_slotRec : s.quiet.slotRec = s.slotRec := rfl
@[simp] theorem State.quiet_pReq : s.quiet.pReq = s.pReq := rfl
@[simp] theorem State.quiet_pData : s.quiet.pData = s.pData := rfl
@[simp] theorem State.quiet_pAck : s.quiet.pAck = s.pAck := rfl
@[simp] theorem State.quiet_cReq : s.quiet.cReq = s.cReq := rfl
@[simp] theorem State.quiet_cAck : s.quiet.cAck = s.cAck := rfl
@[simp] theorem State.quiet_cValid : s.quiet.cValid = s.cValid := rfl
@[simp] theorem State.quiet_cData : s.quiet.cData = s.cData := rfl
@[simp] theorem State.quiet_source : s.quiet.source = s.source := rfl
@[simp] theorem State.quiet_hostOps : s.quiet.hostOps = s.hostOps := rfl
@[simp] theorem State.quiet_rst : s.quiet.rst = s.rst := rfl
@[simp] theorem State.quiet_wire : s.quiet.wire = s.wire := rfl
@[simp] theorem State.quiet_out : s.quiet.out = {} := rfl
@[simp] theorem State.quiet_turns : s.quiet.turns = s.turns := rfl
@[simp] theorem State.quiet_tick : s.quiet.tick = s.tick := rfl
@[simp] theorem State.quiet_freeCount : s.quiet.freeCount = s.freeCount := rfl

/-! ## emit -/

@[simp] theorem State.emit_syncState (l : Label) : (s.emit l).syncState = s.syncState := rfl
@[simp] theorem State.emit_cnt (l : Label) : (s.emit l).cnt = s.cnt := rfl
@[simp] theorem State.emit_buf (l : Label) : (s.emit l).buf = s.buf := rfl
@[simp] theorem State.emit_crcAcc (l : Label) : (s.emit l).crcAcc = s.crcAcc := rfl
@[simp] theorem State.emit_armed (l : Label) : (s.emit l).armed = s.armed := rfl
@[simp] theorem State.emit_loopAlive (l : Label) : (s.emit l).loopAlive = s.loopAlive := rfl
@[simp] theorem State.emit_fatal (l : Label) : (s.emit l).fatal = s.fatal := rfl
@[simp] theorem State.emit_runFlag (l : Label) : (s.emit l).runFlag = s.runFlag := rfl
@[simp] theorem State.emit_life (l : Label) : (s.emit l).life = s.life := rfl
@[simp] theorem State.emit_slotValid (l : Label) : (s.emit l).slotValid = s.slotValid := rfl
@[simp] theorem State.emit_slotRec (l : Label) : (s.emit l).slotRec = s.slotRec := rfl
@[simp] theorem State.emit_pReq (l : Label) : (s.emit l).pReq = s.pReq := rfl
@[simp] theorem State.emit_pData (l : Label) : (s.emit l).pData = s.pData := rfl
@[simp] theorem State.emit_pAck (l : Label) : (s.emit l).pAck = s.pAck := rfl
@[simp] theorem State.emit_cReq (l : Label) : (s.emit l).cReq = s.cReq := rfl
@[simp] theorem State.emit_cAck (l : Label) : (s.emit l).cAck = s.cAck := rfl
@[simp] theorem State.emit_cValid (l : Label) : (s.emit l).cValid = s.cValid := rfl
@[simp] theorem State.emit_cData (l : Label) : (s.emit l).cData = s.cData := rfl
@[simp] theorem State.emit_source (l : Label) : (s.emit l).source = s.source := rfl
@[simp] theorem State.emit_hostOps (l : Label) : (s.emit l).hostOps = s.hostOps := rfl
@[simp] theorem State.emit_rst (l : Label) : (s.emit l).rst = s.rst := rfl
@[simp] theorem State.emit_wire (l : Label) : (s.emit l).wire = s.wire := rfl
@[simp] theorem State.emit_out (l : Label) : (s.emit l).out = { evt := some l } := rfl
@[simp] theorem State.emit_turns (l : Label) : (s.emit l).turns = s.turns := rfl
@[simp] theorem State.emit_tick (l : Label) : (s.emit l).tick = s.tick := rfl
@[simp] theorem State.emit_freeCount (l : Label) : (s.emit l).freeCount = s.freeCount := rfl

/-! ## answer -/

@[simp] theorem State.answer_syncState (r : HostRet) : (s.answer r).syncState = s.syncState := rfl
@[simp] theorem State.answer_cnt (r : HostRet) : (s.answer r).cnt = s.cnt := rfl
@[simp] theorem State.answer_buf (r : HostRet) : (s.answer r).buf = s.buf := rfl
@[simp] theorem State.answer_crcAcc (r : HostRet) : (s.answer r).crcAcc = s.crcAcc := rfl
@[simp] theorem State.answer_armed (r : HostRet) : (s.answer r).armed = s.armed := rfl
@[simp] theorem State.answer_loopAlive (r : HostRet) : (s.answer r).loopAlive = s.loopAlive := rfl
@[simp] theorem State.answer_fatal (r : HostRet) : (s.answer r).fatal = s.fatal := rfl
@[simp] theorem State.answer_runFlag (r : HostRet) : (s.answer r).runFlag = s.runFlag := rfl
@[simp] theorem State.answer_life (r : HostRet) : (s.answer r).life = s.life := rfl
@[simp] theorem State.answer_slotValid (r : HostRet) : (s.answer r).slotValid = s.slotValid := rfl
@[simp] theorem State.answer_slotRec (r : HostRet) : (s.answer r).slotRec = s.slotRec := rfl
@[simp] theorem State.answer_pReq (r : HostRet) : (s.answer r).pReq = s.pReq := rfl
@[simp] theorem State.answer_pData (r : HostRet) : (s.answer r).pData = s.pData := rfl
@[simp] theorem State.answer_pAck (r : HostRet) : (s.answer r).pAck = s.pAck := rfl
@[simp] theorem State.answer_cReq (r : HostRet) : (s.answer r).cReq = s.cReq := rfl
@[simp] theorem State.answer_cAck (r : HostRet) : (s.answer r).cAck = s.cAck := rfl
@[simp] theorem State.answer_cValid (r : HostRet) : (s.answer r).cValid = s.cValid := rfl
@[simp] theorem State.answer_cData (r : HostRet) : (s.answer r).cData = s.cData := rfl
@[simp] theorem State.answer_source (r : HostRet) : (s.answer r).source = s.source := rfl
@[simp] theorem State.answer_hostOps (r : HostRet) : (s.answer r).hostOps = s.hostOps := rfl
@[simp] theorem State.answer_rst (r : HostRet) : (s.answer r).rst = s.rst := rfl
@[simp] theorem State.answer_wire (r : HostRet) : (s.answer r).wire = s.wire := rfl
@[simp] theorem State.answer_out (r : HostRet) : (s.answer r).out = { hostRet := some r } := rfl
@[simp] theorem State.answer_turns (r : HostRet) : (s.answer r).turns = s.turns := rfl
@[simp] theorem State.answer_tick (r : HostRet) : (s.answer r).tick = s.tick := rfl
@[simp] theorem State.answer_freeCount (r : HostRet) : (s.answer r).freeCount = s.freeCount := rfl

/-! ## consume -/

@[simp] theorem State.consume_syncState : s.consume.syncState = s.syncState := rfl
@[simp] theorem State.consume_cnt : s.consume.cnt = s.cnt := rfl
@[simp] theorem State.consume_buf : s.consume.buf = s.buf := rfl
@[simp] theorem State.consume_crcAcc : s.consume.crcAcc = s.crcAcc := rfl
@[simp] theorem State.consume_armed : s.consume.armed = s.armed := rfl
@[simp] theorem State.consume_loopAlive : s.consume.loopAlive = s.loopAlive := rfl
@[simp] theorem State.consume_fatal : s.consume.fatal = s.fatal := rfl
@[simp] theorem State.consume_runFlag : s.consume.runFlag = s.runFlag := rfl
@[simp] theorem State.consume_life : s.consume.life = s.life := rfl
@[simp] theorem State.consume_slotValid : s.consume.slotValid = s.slotValid := rfl
@[simp] theorem State.consume_slotRec : s.consume.slotRec = s.slotRec := rfl
@[simp] theorem State.consume_pReq : s.consume.pReq = s.pReq := rfl
@[simp] theorem State.consume_pData : s.consume.pData = s.pData := rfl
@[simp] theorem State.consume_pAck : s.consume.pAck = s.pAck := rfl
@[simp] theorem State.consume_cReq : s.consume.cReq = s.cReq := rfl
@[simp] theorem State.consume_cAck : s.consume.cAck = s.cAck := rfl
@[simp] theorem State.consume_cValid : s.consume.cValid = s.cValid := rfl
@[simp] theorem State.consume_cData : s.consume.cData = s.cData := rfl
@[simp] theorem State.consume_source : s.consume.source = s.source.tail := rfl
@[simp] theorem State.consume_hostOps : s.consume.hostOps = s.hostOps := rfl
@[simp] theorem State.consume_rst : s.consume.rst = s.rst := rfl
@[simp] theorem State.consume_wire : s.consume.wire = s.wire := rfl
@[simp] theorem State.consume_out : s.consume.out = s.out := rfl
@[simp] theorem State.consume_turns : s.consume.turns = s.turns := rfl
@[simp] theorem State.consume_tick : s.consume.tick = s.tick := rfl
@[simp] theorem State.consume_freeCount : s.consume.freeCount = s.freeCount := rfl

/-! ## popHost -/

@[simp] theorem State.popHost_syncState : s.popHost.syncState = s.syncState := rfl
@[simp] theorem State.popHost_cnt : s.popHost.cnt = s.cnt := rfl
@[simp] theorem State.popHost_buf : s.popHost.buf = s.buf := rfl
@[simp] theorem State.popHost_crcAcc : s.popHost.crcAcc = s.crcAcc := rfl
@[simp] theorem State.popHost_armed : s.popHost.armed = s.armed := rfl
@[simp] theorem State.popHost_loopAlive : s.popHost.loopAlive = s.loopAlive := rfl
@[simp] theorem State.popHost_fatal : s.popHost.fatal = s.fatal := rfl
@[simp] theorem State.popHost_runFlag : s.popHost.runFlag = s.runFlag := rfl
@[simp] theorem State.popHost_life : s.popHost.life = s.life := rfl
@[simp] theorem State.popHost_slotValid : s.popHost.slotValid = s.slotValid := rfl
@[simp] theorem State.popHost_slotRec : s.popHost.slotRec = s.slotRec := rfl
@[simp] theorem State.popHost_pReq : s.popHost.pReq = s.pReq := rfl
@[simp] theorem State.popHost_pData : s.popHost.pData = s.pData := rfl
@[simp] theorem State.popHost_pAck : s.popHost.pAck = s.pAck := rfl
@[simp] theorem State.popHost_cReq : s.popHost.cReq = s.cReq := rfl
@[simp] theorem State.popHost_cAck : s.popHost.cAck = s.cAck := rfl
@[simp] theorem State.popHost_cValid : s.popHost.cValid = s.cValid := rfl
@[simp] theorem State.popHost_cData : s.popHost.cData = s.cData := rfl
@[simp] theorem State.popHost_source : s.popHost.source = s.source := rfl
@[simp] theorem State.popHost_hostOps : s.popHost.hostOps = s.hostOps.tail := rfl
@[simp] theorem State.popHost_rst : s.popHost.rst = s.rst := rfl
@[simp] theorem State.popHost_wire : s.popHost.wire = s.wire := rfl
@[simp] theorem State.popHost_out : s.popHost.out = s.out := rfl
@[simp] theorem State.popHost_turns : s.popHost.turns = s.turns := rfl
@[simp] theorem State.popHost_tick : s.popHost.tick = s.tick := rfl
@[simp] theorem State.popHost_freeCount : s.popHost.freeCount = s.freeCount := rfl

/-! ## deliver -/

@[simp] theorem State.deliver_syncState (bytes : List Byte) : (s.deliver bytes).syncState = s.syncState := rfl
@[simp] theorem State.deliver_cnt (bytes : List Byte) : (s.deliver bytes).cnt = s.cnt := rfl
@[simp] theorem State.deliver_buf (bytes : List Byte) : (s.deliver bytes).buf = s.buf := rfl
@[simp] theorem State.deliver_crcAcc (bytes : List Byte) : (s.deliver bytes).crcAcc = s.crcAcc := rfl
@[simp] theorem State.deliver_armed (bytes : List Byte) : (s.deliver bytes).armed = s.armed := rfl
@[simp] theorem State.deliver_loopAlive (bytes : List Byte) : (s.deliver bytes).loopAlive = s.loopAlive := rfl
@[simp] theorem State.deliver_fatal (bytes : List Byte) : (s.deliver bytes).fatal = s.fatal := rfl
@[simp] theorem State.deliver_runFlag (bytes : List Byte) : (s.deliver bytes).runFlag = s.runFlag := rfl
@[simp] theorem State.deliver_life (bytes : List Byte) : (s.deliver bytes).life = s.life := rfl
@[simp] theorem State.deliver_slotValid (bytes : List Byte) : (s.deliver bytes).slotValid = s.slotValid := rfl
@[simp] theorem State.deliver_slotRec (bytes : List Byte) : (s.deliver bytes).slotRec = s.slotRec := rfl
@[simp] theorem State.deliver_pReq (bytes : List Byte) : (s.deliver bytes).pReq = s.pReq := rfl
@[simp] theorem State.deliver_pData (bytes : List Byte) : (s.deliver bytes).pData = s.pData := rfl
@[simp] theorem State.deliver_pAck (bytes : List Byte) : (s.deliver bytes).pAck = s.pAck := rfl
@[simp] theorem State.deliver_cReq (bytes : List Byte) : (s.deliver bytes).cReq = s.cReq := rfl
@[simp] theorem State.deliver_cAck (bytes : List Byte) : (s.deliver bytes).cAck = s.cAck := rfl
@[simp] theorem State.deliver_cValid (bytes : List Byte) : (s.deliver bytes).cValid = s.cValid := rfl
@[simp] theorem State.deliver_cData (bytes : List Byte) : (s.deliver bytes).cData = s.cData := rfl
@[simp] theorem State.deliver_source (bytes : List Byte) : (s.deliver bytes).source = s.source ++ bytes.map byteWord := rfl
@[simp] theorem State.deliver_hostOps (bytes : List Byte) : (s.deliver bytes).hostOps = s.hostOps := rfl
@[simp] theorem State.deliver_rst (bytes : List Byte) : (s.deliver bytes).rst = s.rst := rfl
@[simp] theorem State.deliver_wire (bytes : List Byte) : (s.deliver bytes).wire = s.wire.tail := rfl
@[simp] theorem State.deliver_out (bytes : List Byte) : (s.deliver bytes).out = {} := rfl
@[simp] theorem State.deliver_turns (bytes : List Byte) : (s.deliver bytes).turns = s.turns := rfl
@[simp] theorem State.deliver_tick (bytes : List Byte) : (s.deliver bytes).tick = s.tick := rfl
@[simp] theorem State.deliver_freeCount (bytes : List Byte) : (s.deliver bytes).freeCount = s.freeCount := rfl

/-! ## toSeekFirst -/

@[simp] theorem State.toSeekFirst_syncState : s.toSeekFirst.syncState = .seekFirst := rfl
@[simp] theorem State.toSeekFirst_cnt : s.toSeekFirst.cnt = 0 := rfl
@[simp] theorem State.toSeekFirst_buf : s.toSeekFirst.buf = Config.freeBuf s.freeCount := rfl
@[simp] theorem State.toSeekFirst_crcAcc : s.toSeekFirst.crcAcc = s.crcAcc := rfl
@[simp] theorem State.toSeekFirst_armed : s.toSeekFirst.armed = s.armed := rfl
@[simp] theorem State.toSeekFirst_loopAlive : s.toSeekFirst.loopAlive = s.loopAlive := rfl
@[simp] theorem State.toSeekFirst_fatal : s.toSeekFirst.fatal = s.fatal := rfl
@[simp] theorem State.toSeekFirst_runFlag : s.toSeekFirst.runFlag = s.runFlag := rfl
@[simp] theorem State.toSeekFirst_life : s.toSeekFirst.life = s.life := rfl
@[simp] theorem State.toSeekFirst_slotValid : s.toSeekFirst.slotValid = s.slotValid := rfl
@[simp] theorem State.toSeekFirst_slotRec : s.toSeekFirst.slotRec = s.slotRec := rfl
@[simp] theorem State.toSeekFirst_pReq : s.toSeekFirst.pReq = s.pReq := rfl
@[simp] theorem State.toSeekFirst_pData : s.toSeekFirst.pData = s.pData := rfl
@[simp] theorem State.toSeekFirst_pAck : s.toSeekFirst.pAck = s.pAck := rfl
@[simp] theorem State.toSeekFirst_cReq : s.toSeekFirst.cReq = s.cReq := rfl
@[simp] theorem State.toSeekFirst_cAck : s.toSeekFirst.cAck = s.cAck := rfl
@[simp] theorem State.toSeekFirst_cValid : s.toSeekFirst.cValid = s.cValid := rfl
@[simp] theorem State.toSeekFirst_cData : s.toSeekFirst.cData = s.cData := rfl
@[simp] theorem State.toSeekFirst_source : s.toSeekFirst.source = s.source := rfl
@[simp] theorem State.toSeekFirst_hostOps : s.toSeekFirst.hostOps = s.hostOps := rfl
@[simp] theorem State.toSeekFirst_rst : s.toSeekFirst.rst = s.rst := rfl
@[simp] theorem State.toSeekFirst_wire : s.toSeekFirst.wire = s.wire := rfl
@[simp] theorem State.toSeekFirst_out : s.toSeekFirst.out = s.out := rfl
@[simp] theorem State.toSeekFirst_turns : s.toSeekFirst.turns = s.turns := rfl
@[simp] theorem State.toSeekFirst_tick : s.toSeekFirst.tick = s.tick := rfl
@[simp] theorem State.toSeekFirst_freeCount : s.toSeekFirst.freeCount = s.freeCount + 1 := rfl

/-! ## resync -/

@[simp] theorem State.resync_syncState (l : Label) : (s.resync l).syncState = .seekFirst := rfl
@[simp] theorem State.resync_cnt (l : Label) : (s.resync l).cnt = 0 := rfl
@[simp] theorem State.resync_buf (l : Label) : (s.resync l).buf = Config.freeBuf s.freeCount := rfl
@[simp] theorem State.resync_crcAcc (l : Label) : (s.resync l).crcAcc = s.crcAcc := rfl
@[simp] theorem State.resync_armed (l : Label) : (s.resync l).armed = s.armed := rfl
@[simp] theorem State.resync_loopAlive (l : Label) : (s.resync l).loopAlive = s.loopAlive := rfl
@[simp] theorem State.resync_fatal (l : Label) : (s.resync l).fatal = s.fatal := rfl
@[simp] theorem State.resync_runFlag (l : Label) : (s.resync l).runFlag = s.runFlag := rfl
@[simp] theorem State.resync_life (l : Label) : (s.resync l).life = s.life := rfl
@[simp] theorem State.resync_slotValid (l : Label) : (s.resync l).slotValid = s.slotValid := rfl
@[simp] theorem State.resync_slotRec (l : Label) : (s.resync l).slotRec = s.slotRec := rfl
@[simp] theorem State.resync_pReq (l : Label) : (s.resync l).pReq = s.pReq := rfl
@[simp] theorem State.resync_pData (l : Label) : (s.resync l).pData = s.pData := rfl
@[simp] theorem State.resync_pAck (l : Label) : (s.resync l).pAck = s.pAck := rfl
@[simp] theorem State.resync_cReq (l : Label) : (s.resync l).cReq = s.cReq := rfl
@[simp] theorem State.resync_cAck (l : Label) : (s.resync l).cAck = s.cAck := rfl
@[simp] theorem State.resync_cValid (l : Label) : (s.resync l).cValid = s.cValid := rfl
@[simp] theorem State.resync_cData (l : Label) : (s.resync l).cData = s.cData := rfl
@[simp] theorem State.resync_source (l : Label) : (s.resync l).source = s.source := rfl
@[simp] theorem State.resync_hostOps (l : Label) : (s.resync l).hostOps = s.hostOps := rfl
@[simp] theorem State.resync_rst (l : Label) : (s.resync l).rst = s.rst := rfl
@[simp] theorem State.resync_wire (l : Label) : (s.resync l).wire = s.wire := rfl
@[simp] theorem State.resync_out (l : Label) : (s.resync l).out = { evt := some l } := rfl
@[simp] theorem State.resync_turns (l : Label) : (s.resync l).turns = s.turns := rfl
@[simp] theorem State.resync_tick (l : Label) : (s.resync l).tick = s.tick := rfl
@[simp] theorem State.resync_freeCount (l : Label) : (s.resync l).freeCount = s.freeCount + 1 := rfl

/-! ## raisePublish -/

@[simp] theorem State.raisePublish_syncState (r : Record) : (s.raisePublish r).syncState = s.syncState := rfl
@[simp] theorem State.raisePublish_cnt (r : Record) : (s.raisePublish r).cnt = s.cnt := rfl
@[simp] theorem State.raisePublish_buf (r : Record) : (s.raisePublish r).buf = s.buf := rfl
@[simp] theorem State.raisePublish_crcAcc (r : Record) : (s.raisePublish r).crcAcc = s.crcAcc := rfl
@[simp] theorem State.raisePublish_armed (r : Record) : (s.raisePublish r).armed = s.armed := rfl
@[simp] theorem State.raisePublish_loopAlive (r : Record) : (s.raisePublish r).loopAlive = s.loopAlive := rfl
@[simp] theorem State.raisePublish_fatal (r : Record) : (s.raisePublish r).fatal = s.fatal := rfl
@[simp] theorem State.raisePublish_runFlag (r : Record) : (s.raisePublish r).runFlag = s.runFlag := rfl
@[simp] theorem State.raisePublish_life (r : Record) : (s.raisePublish r).life = s.life := rfl
@[simp] theorem State.raisePublish_slotValid (r : Record) : (s.raisePublish r).slotValid = s.slotValid := rfl
@[simp] theorem State.raisePublish_slotRec (r : Record) : (s.raisePublish r).slotRec = s.slotRec := rfl
@[simp] theorem State.raisePublish_pReq (r : Record) : (s.raisePublish r).pReq = true := rfl
@[simp] theorem State.raisePublish_pData (r : Record) : (s.raisePublish r).pData = r := rfl
@[simp] theorem State.raisePublish_pAck (r : Record) : (s.raisePublish r).pAck = s.pAck := rfl
@[simp] theorem State.raisePublish_cReq (r : Record) : (s.raisePublish r).cReq = s.cReq := rfl
@[simp] theorem State.raisePublish_cAck (r : Record) : (s.raisePublish r).cAck = s.cAck := rfl
@[simp] theorem State.raisePublish_cValid (r : Record) : (s.raisePublish r).cValid = s.cValid := rfl
@[simp] theorem State.raisePublish_cData (r : Record) : (s.raisePublish r).cData = s.cData := rfl
@[simp] theorem State.raisePublish_source (r : Record) : (s.raisePublish r).source = s.source := rfl
@[simp] theorem State.raisePublish_hostOps (r : Record) : (s.raisePublish r).hostOps = s.hostOps := rfl
@[simp] theorem State.raisePublish_rst (r : Record) : (s.raisePublish r).rst = s.rst := rfl
@[simp] theorem State.raisePublish_wire (r : Record) : (s.raisePublish r).wire = s.wire := rfl
@[simp] theorem State.raisePublish_out (r : Record) : (s.raisePublish r).out = s.out := rfl
@[simp] theorem State.raisePublish_turns (r : Record) : (s.raisePublish r).turns = s.turns := rfl
@[simp] theorem State.raisePublish_tick (r : Record) : (s.raisePublish r).tick = s.tick := rfl
@[simp] theorem State.raisePublish_freeCount (r : Record) : (s.raisePublish r).freeCount = s.freeCount := rfl

/-! ## crcDone -/

@[simp] theorem State.crcDone_syncState : s.crcDone.syncState = s.syncState := rfl
@[simp] theorem State.crcDone_cnt : s.crcDone.cnt = s.cnt := rfl
@[simp] theorem State.crcDone_buf : s.crcDone.buf = s.buf := rfl
@[simp] theorem State.crcDone_crcAcc : s.crcDone.crcAcc = Config.freeByte s.freeCount := rfl
@[simp] theorem State.crcDone_armed : s.crcDone.armed = s.armed := rfl
@[simp] theorem State.crcDone_loopAlive : s.crcDone.loopAlive = s.loopAlive := rfl
@[simp] theorem State.crcDone_fatal : s.crcDone.fatal = s.fatal := rfl
@[simp] theorem State.crcDone_runFlag : s.crcDone.runFlag = s.runFlag := rfl
@[simp] theorem State.crcDone_life : s.crcDone.life = s.life := rfl
@[simp] theorem State.crcDone_slotValid : s.crcDone.slotValid = s.slotValid := rfl
@[simp] theorem State.crcDone_slotRec : s.crcDone.slotRec = s.slotRec := rfl
@[simp] theorem State.crcDone_pReq : s.crcDone.pReq = s.pReq := rfl
@[simp] theorem State.crcDone_pData : s.crcDone.pData = s.pData := rfl
@[simp] theorem State.crcDone_pAck : s.crcDone.pAck = s.pAck := rfl
@[simp] theorem State.crcDone_cReq : s.crcDone.cReq = s.cReq := rfl
@[simp] theorem State.crcDone_cAck : s.crcDone.cAck = s.cAck := rfl
@[simp] theorem State.crcDone_cValid : s.crcDone.cValid = s.cValid := rfl
@[simp] theorem State.crcDone_cData : s.crcDone.cData = s.cData := rfl
@[simp] theorem State.crcDone_source : s.crcDone.source = s.source := rfl
@[simp] theorem State.crcDone_hostOps : s.crcDone.hostOps = s.hostOps := rfl
@[simp] theorem State.crcDone_rst : s.crcDone.rst = s.rst := rfl
@[simp] theorem State.crcDone_wire : s.crcDone.wire = s.wire := rfl
@[simp] theorem State.crcDone_out : s.crcDone.out = s.out := rfl
@[simp] theorem State.crcDone_turns : s.crcDone.turns = s.turns := rfl
@[simp] theorem State.crcDone_tick : s.crcDone.tick = s.tick := rfl
@[simp] theorem State.crcDone_freeCount : s.crcDone.freeCount = s.freeCount + 1 := rfl

/-! ## putSlot -/

@[simp] theorem State.putSlot_syncState (r : Record) : (s.putSlot r).syncState = s.syncState := rfl
@[simp] theorem State.putSlot_cnt (r : Record) : (s.putSlot r).cnt = s.cnt := rfl
@[simp] theorem State.putSlot_buf (r : Record) : (s.putSlot r).buf = s.buf := rfl
@[simp] theorem State.putSlot_crcAcc (r : Record) : (s.putSlot r).crcAcc = s.crcAcc := rfl
@[simp] theorem State.putSlot_armed (r : Record) : (s.putSlot r).armed = s.armed := rfl
@[simp] theorem State.putSlot_loopAlive (r : Record) : (s.putSlot r).loopAlive = s.loopAlive := rfl
@[simp] theorem State.putSlot_fatal (r : Record) : (s.putSlot r).fatal = s.fatal := rfl
@[simp] theorem State.putSlot_runFlag (r : Record) : (s.putSlot r).runFlag = s.runFlag := rfl
@[simp] theorem State.putSlot_life (r : Record) : (s.putSlot r).life = s.life := rfl
@[simp] theorem State.putSlot_slotValid (r : Record) : (s.putSlot r).slotValid = true := rfl
@[simp] theorem State.putSlot_slotRec (r : Record) : (s.putSlot r).slotRec = r := rfl
@[simp] theorem State.putSlot_pReq (r : Record) : (s.putSlot r).pReq = s.pReq := rfl
@[simp] theorem State.putSlot_pData (r : Record) : (s.putSlot r).pData = s.pData := rfl
@[simp] theorem State.putSlot_pAck (r : Record) : (s.putSlot r).pAck = s.pAck := rfl
@[simp] theorem State.putSlot_cReq (r : Record) : (s.putSlot r).cReq = s.cReq := rfl
@[simp] theorem State.putSlot_cAck (r : Record) : (s.putSlot r).cAck = s.cAck := rfl
@[simp] theorem State.putSlot_cValid (r : Record) : (s.putSlot r).cValid = s.cValid := rfl
@[simp] theorem State.putSlot_cData (r : Record) : (s.putSlot r).cData = s.cData := rfl
@[simp] theorem State.putSlot_source (r : Record) : (s.putSlot r).source = s.source := rfl
@[simp] theorem State.putSlot_hostOps (r : Record) : (s.putSlot r).hostOps = s.hostOps := rfl
@[simp] theorem State.putSlot_rst (r : Record) : (s.putSlot r).rst = s.rst := rfl
@[simp] theorem State.putSlot_wire (r : Record) : (s.putSlot r).wire = s.wire := rfl
@[simp] theorem State.putSlot_out (r : Record) : (s.putSlot r).out = s.out := rfl
@[simp] theorem State.putSlot_turns (r : Record) : (s.putSlot r).turns = s.turns := rfl
@[simp] theorem State.putSlot_tick (r : Record) : (s.putSlot r).tick = s.tick := rfl
@[simp] theorem State.putSlot_freeCount (r : Record) : (s.putSlot r).freeCount = s.freeCount := rfl

/-! ## emptySlot -/

@[simp] theorem State.emptySlot_syncState : s.emptySlot.syncState = s.syncState := rfl
@[simp] theorem State.emptySlot_cnt : s.emptySlot.cnt = s.cnt := rfl
@[simp] theorem State.emptySlot_buf : s.emptySlot.buf = s.buf := rfl
@[simp] theorem State.emptySlot_crcAcc : s.emptySlot.crcAcc = s.crcAcc := rfl
@[simp] theorem State.emptySlot_armed : s.emptySlot.armed = s.armed := rfl
@[simp] theorem State.emptySlot_loopAlive : s.emptySlot.loopAlive = s.loopAlive := rfl
@[simp] theorem State.emptySlot_fatal : s.emptySlot.fatal = s.fatal := rfl
@[simp] theorem State.emptySlot_runFlag : s.emptySlot.runFlag = s.runFlag := rfl
@[simp] theorem State.emptySlot_life : s.emptySlot.life = s.life := rfl
@[simp] theorem State.emptySlot_slotValid : s.emptySlot.slotValid = false := rfl
@[simp] theorem State.emptySlot_slotRec : s.emptySlot.slotRec = Config.freeRecord s.freeCount := rfl
@[simp] theorem State.emptySlot_pReq : s.emptySlot.pReq = s.pReq := rfl
@[simp] theorem State.emptySlot_pData : s.emptySlot.pData = s.pData := rfl
@[simp] theorem State.emptySlot_pAck : s.emptySlot.pAck = s.pAck := rfl
@[simp] theorem State.emptySlot_cReq : s.emptySlot.cReq = s.cReq := rfl
@[simp] theorem State.emptySlot_cAck : s.emptySlot.cAck = s.cAck := rfl
@[simp] theorem State.emptySlot_cValid : s.emptySlot.cValid = s.cValid := rfl
@[simp] theorem State.emptySlot_cData : s.emptySlot.cData = s.cData := rfl
@[simp] theorem State.emptySlot_source : s.emptySlot.source = s.source := rfl
@[simp] theorem State.emptySlot_hostOps : s.emptySlot.hostOps = s.hostOps := rfl
@[simp] theorem State.emptySlot_rst : s.emptySlot.rst = s.rst := rfl
@[simp] theorem State.emptySlot_wire : s.emptySlot.wire = s.wire := rfl
@[simp] theorem State.emptySlot_out : s.emptySlot.out = s.out := rfl
@[simp] theorem State.emptySlot_turns : s.emptySlot.turns = s.turns := rfl
@[simp] theorem State.emptySlot_tick : s.emptySlot.tick = s.tick := rfl
@[simp] theorem State.emptySlot_freeCount : s.emptySlot.freeCount = s.freeCount + 1 := rfl

/-! ## captureSlot -/

@[simp] theorem State.captureSlot_syncState : s.captureSlot.syncState = s.syncState := rfl
@[simp] theorem State.captureSlot_cnt : s.captureSlot.cnt = s.cnt := rfl
@[simp] theorem State.captureSlot_buf : s.captureSlot.buf = s.buf := rfl
@[simp] theorem State.captureSlot_crcAcc : s.captureSlot.crcAcc = s.crcAcc := rfl
@[simp] theorem State.captureSlot_armed : s.captureSlot.armed = s.armed := rfl
@[simp] theorem State.captureSlot_loopAlive : s.captureSlot.loopAlive = s.loopAlive := rfl
@[simp] theorem State.captureSlot_fatal : s.captureSlot.fatal = s.fatal := rfl
@[simp] theorem State.captureSlot_runFlag : s.captureSlot.runFlag = s.runFlag := rfl
@[simp] theorem State.captureSlot_life : s.captureSlot.life = s.life := rfl
@[simp] theorem State.captureSlot_slotValid : s.captureSlot.slotValid = s.slotValid := rfl
@[simp] theorem State.captureSlot_slotRec : s.captureSlot.slotRec = s.slotRec := rfl
@[simp] theorem State.captureSlot_pReq : s.captureSlot.pReq = s.pReq := rfl
@[simp] theorem State.captureSlot_pData : s.captureSlot.pData = s.pData := rfl
@[simp] theorem State.captureSlot_pAck : s.captureSlot.pAck = s.pAck := rfl
@[simp] theorem State.captureSlot_cReq : s.captureSlot.cReq = s.cReq := rfl
@[simp] theorem State.captureSlot_cAck : s.captureSlot.cAck = s.cAck := rfl
@[simp] theorem State.captureSlot_cValid : s.captureSlot.cValid = s.slotValid := rfl
@[simp] theorem State.captureSlot_cData : s.captureSlot.cData = if s.slotValid then s.slotRec else Config.freeRecord s.freeCount := rfl
@[simp] theorem State.captureSlot_source : s.captureSlot.source = s.source := rfl
@[simp] theorem State.captureSlot_hostOps : s.captureSlot.hostOps = s.hostOps := rfl
@[simp] theorem State.captureSlot_rst : s.captureSlot.rst = s.rst := rfl
@[simp] theorem State.captureSlot_wire : s.captureSlot.wire = s.wire := rfl
@[simp] theorem State.captureSlot_out : s.captureSlot.out = s.out := rfl
@[simp] theorem State.captureSlot_turns : s.captureSlot.turns = s.turns := rfl
@[simp] theorem State.captureSlot_tick : s.captureSlot.tick = s.tick := rfl
@[simp] theorem State.captureSlot_freeCount : s.captureSlot.freeCount = s.freeCount + 1 := rfl

/-! ## advance -/

@[simp] theorem State.advance_syncState : s.advance.syncState = s.syncState := rfl
@[simp] theorem State.advance_cnt : s.advance.cnt = s.cnt := rfl
@[simp] theorem State.advance_buf : s.advance.buf = s.buf := rfl
@[simp] theorem State.advance_crcAcc : s.advance.crcAcc = s.crcAcc := rfl
@[simp] theorem State.advance_armed : s.advance.armed = s.armed := rfl
@[simp] theorem State.advance_loopAlive : s.advance.loopAlive = s.loopAlive := rfl
@[simp] theorem State.advance_fatal : s.advance.fatal = s.fatal := rfl
@[simp] theorem State.advance_runFlag : s.advance.runFlag = s.runFlag := rfl
@[simp] theorem State.advance_life : s.advance.life = s.life := rfl
@[simp] theorem State.advance_slotValid : s.advance.slotValid = s.slotValid := rfl
@[simp] theorem State.advance_slotRec : s.advance.slotRec = s.slotRec := rfl
@[simp] theorem State.advance_pReq : s.advance.pReq = s.pReq := rfl
@[simp] theorem State.advance_pData : s.advance.pData = s.pData := rfl
@[simp] theorem State.advance_pAck : s.advance.pAck = s.pAck := rfl
@[simp] theorem State.advance_cReq : s.advance.cReq = s.cReq := rfl
@[simp] theorem State.advance_cAck : s.advance.cAck = s.cAck := rfl
@[simp] theorem State.advance_cValid : s.advance.cValid = s.cValid := rfl
@[simp] theorem State.advance_cData : s.advance.cData = s.cData := rfl
@[simp] theorem State.advance_source : s.advance.source = s.source := rfl
@[simp] theorem State.advance_hostOps : s.advance.hostOps = s.hostOps := rfl
@[simp] theorem State.advance_rst : s.advance.rst = s.rst := rfl
@[simp] theorem State.advance_wire : s.advance.wire = s.wire := rfl
@[simp] theorem State.advance_out : s.advance.out = s.out := rfl
@[simp] theorem State.advance_turns : s.advance.turns = s.turns.tail := rfl
@[simp] theorem State.advance_tick : s.advance.tick = s.tick + 1 := rfl
@[simp] theorem State.advance_freeCount : s.advance.freeCount = s.freeCount := rfl

end Sys2Proof.Machine
end

