-- ==== Sys2Proof/Laws/Ops.lean ====
section
/-! SUPPORT. Laws/Ops.lean: what each shared operation can answer, said once: the three ways an operation is tried, the
judging of a frame, and the slot. -/

namespace Sys2Proof.Machine

variable {s t next : State}

/-! ## Trying an operation -/

theorem State.tryStep_of {guard : Prop} [Decidable guard] (h : guard) : s.tryStep guard next = .next next := if_pos h

theorem State.tryStep_not {guard : Prop} [Decidable guard] (h : ¬guard) : s.tryStep guard next = .next s.quiet := if_neg h

theorem State.tryStep_cases {guard : Prop} [Decidable guard] (h : s.tryStep guard next = .next t) :
    (guard ∧ t = next) ∨ (¬guard ∧ t = s.quiet) := by
  by_cases g : guard
  · rw [State.tryStep_of g] at h; exact .inl ⟨g, by injection h with h; exact h.symm⟩
  · rw [State.tryStep_not g] at h; exact .inr ⟨g, by injection h with h; exact h.symm⟩

theorem State.accept_of {here : Prop} [Decidable here] {effect : State → State} (ready : s.InReady) (h : here) :
    s.accept here effect = .next (effect s.consume) := State.tryStep_of ⟨ready, h⟩

theorem State.accept_not {here : Prop} [Decidable here] {effect : State → State} (h : ¬s.InReady) :
    s.accept here effect = .next s.quiet := State.tryStep_not fun g => h g.1

theorem State.accept_cases {here : Prop} [Decidable here] {effect : State → State}
    (h : s.accept here effect = .next t) :
    (s.InReady ∧ here ∧ t = effect s.consume) ∨ (¬(s.InReady ∧ here) ∧ t = s.quiet) := by
  obtain ⟨⟨r, g⟩, e⟩ | ⟨n, e⟩ := State.tryStep_cases h
  · exact .inl ⟨r, g, e⟩
  · exact .inr ⟨n, e⟩

theorem State.issue_of {here : Prop} [Decidable here] {effect : State → State} (free : ¬s.HostBusy) (h : here) :
    s.issue here effect = .next (effect s.popHost) := by
  unfold State.issue; rw [if_neg free]; exact State.tryStep_of h

theorem State.issue_busy {here : Prop} [Decidable here] {effect : State → State} (busy : s.HostBusy) :
    s.issue here effect = .refused .hostOverlap := if_pos busy

theorem State.issue_cases {here : Prop} [Decidable here] {effect : State → State} (h : s.issue here effect = .next t) :
    ¬s.HostBusy ∧ ((here ∧ t = effect s.popHost) ∨ (¬here ∧ t = s.quiet)) := by
  by_cases b : s.HostBusy
  · rw [State.issue_busy b] at h; cases h
  · unfold State.issue at h; rw [if_neg b] at h; exact ⟨b, State.tryStep_cases h⟩

/-! ## Judging a frame -/

theorem State.judge_badTrailer (h : validate s.buf = .badTrailer) :
    s.judge = s.crcDone.resync (.eTrailer s.buf[17] s.buf[18]) := by unfold State.judge; rw [h]

theorem State.judge_badChecksum {computed : Byte} (h : validate s.buf = .badChecksum computed) :
    s.judge = s.crcDone.resync (.eChecksum computed s.buf[16]) := by unfold State.judge; rw [h]

theorem State.judge_good (h : validate s.buf = .good) :
    s.judge = (s.crcDone.raisePublish (decodePayload (payload s.buf))).resync
      (.frameOk (decodePayload (payload s.buf))) := by unfold State.judge; rw [h]

/-- Whatever the verdict, judging a frame abandons the attempt with one label; it requests a publish in the Good case and
changes no other request. -/
theorem State.judge_cases (s : State) :
    ∃ l, (s.judge = s.crcDone.resync l ∧ validate s.buf ≠ .good) ∨
      (s.judge = (s.crcDone.raisePublish (decodePayload (payload s.buf))).resync l ∧ validate s.buf = .good) := by
  cases h : validate s.buf with
  | badTrailer => exact ⟨_, .inl ⟨State.judge_badTrailer h, by simp⟩⟩
  | badChecksum c => exact ⟨_, .inl ⟨State.judge_badChecksum h, by simp⟩⟩
  | good => exact ⟨_, .inr ⟨State.judge_good h, rfl⟩⟩

/-! ## The slot -/

@[simp] theorem State.slot_putSlot (s : State) (r : Record) : (s.putSlot r).slot = some r := rfl

@[simp] theorem State.slot_emptySlot (s : State) : s.emptySlot.slot = none := rfl

@[simp] theorem State.slot_quiet (s : State) : s.quiet.slot = s.slot := rfl

@[simp] theorem State.slot_advance (s : State) : s.advance.slot = s.slot := rfl

/-- What S_SERVE_C captures is what the slot held. -/
@[simp] theorem State.takeResult_captureSlot (s : State) : s.captureSlot.takeResult = s.slot := by
  unfold State.takeResult State.slot; cases h : s.slotValid <;> simp [h]

end Sys2Proof.Machine
end

