-- ==== Sys2Proof/Laws/Agents.lean ====
section
/-! SUPPORT. Laws/Agents.lean: what one turn of an agent can do, said once, and how a run unfolds turn by turn. -/

namespace Sys2Proof.Machine

variable {s t : State}


theorem step_eq (s : State) : step s = s.advance.agentStep s.nextTurn := rfl

/-- A turn that reaches a next state ran an operation, waited, or delivered bytes to the source. -/
theorem State.perform_cases {sel : Selection} (h : s.perform sel = .next t) :
    (∃ i, sel = .run i ∧ exec i s = .next t) ∨ t = s.quiet ∨ (∃ bytes, sel = .deliver bytes ∧ t = s.deliver bytes) := by
  cases sel with
  | idle => injection h with h; exact .inr (.inl h.symm)
  | run i => exact .inl ⟨i, rfl, h⟩
  | deliver bytes => injection h with h; exact .inr (.inr ⟨bytes, rfl, h.symm⟩)
  | reject e =>
    cases e with
    | hostOperationInProgress => cases h
    | countOutOfRange => cases h
    | noReset => injection h with h; exact .inr (.inl h.symm)
    | notAFrame => injection h with h; exact .inr (.inl h.symm)

theorem selectDecoded_run {d : Except DecodeError Instr} {i : Instr} (h : selectDecoded d = .run i) : d = .ok i := by
  cases d with
  | ok j => injection h with h; rw [h]
  | error e => cases h

theorem selectDecoded_ne_deliver {d : Except DecodeError Instr} {bytes : List Byte} :
    selectDecoded d ≠ .deliver bytes := by
  cases d with
  | ok j => nofun
  | error e => nofun

/-- What SYNC's turn can run. -/
theorem State.selectSync_run {i : Instr} (h : s.selectSync = .run i) :
    (i = .pLower ∧ s.LowerPReady) ∨ (i = .check ∧ s.CheckReady) ∨
      (¬s.LowerPReady ∧ ¬s.CheckReady ∧ ∃ w rest, s.source = w :: rest ∧ decode s.mode (.src w) = .ok i) := by
  unfold State.selectSync at h
  split at h
  · next c => injection h with h; exact .inl ⟨h.symm, c⟩
  · split at h
    · next _ c => injection h with h; exact .inr (.inl ⟨h.symm, c⟩)
    · next c d =>
      split at h
      · cases h
      · next w rest e => exact .inr (.inr ⟨c, d, w, rest, e, selectDecoded_run h⟩)

/-- What STORE's turns can run. -/
theorem State.selectStoreP_run {i : Instr} (h : s.selectStoreP = .run i) :
    (i = .sServeP ∧ s.ServePReady) ∨ (i = .sClearP ∧ s.ClearPReady) := by
  unfold State.selectStoreP at h
  split at h
  · next c => injection h with h; exact .inl ⟨h.symm, c⟩
  · split at h
    · next _ c => injection h with h; exact .inr ⟨h.symm, c⟩
    · cases h

theorem State.selectStoreC_run {i : Instr} (h : s.selectStoreC = .run i) :
    (i = .sServeC ∧ s.ServeCReady) ∨ (i = .sClearC ∧ s.ClearCReady) := by
  unfold State.selectStoreC at h
  split at h
  · next c => injection h with h; exact .inl ⟨h.symm, c⟩
  · split at h
    · next _ c => injection h with h; exact .inr ⟨h.symm, c⟩
    · cases h

/-- What HOST's turns can run. -/
theorem State.selectHostIssue_run {i : Instr} (h : s.selectHostIssue = .run i) :
    ∃ w rest, s.hostOps = w :: rest ∧ decode s.mode (.host w) = .ok i := by
  unfold State.selectHostIssue at h
  split at h
  · cases h
  · next w rest e => exact ⟨w, rest, e, selectDecoded_run h⟩

theorem State.selectHostReturn_run {i : Instr} (h : s.selectHostReturn = .run i) :
    (i = .stopRet ∧ s.StopRetReady) ∨ (i = .cLower ∧ s.LowerCReady) := by
  unfold State.selectHostReturn at h
  split at h
  · next c => injection h with h; exact .inl ⟨h.symm, c⟩
  · split at h
    · next _ c => injection h with h; exact .inr ⟨h.symm, c⟩
    · cases h

/-- What RST's turn can run: RESET. -/
theorem State.selectRst_run {i : Instr} (h : s.selectRst = .run i) : i = .reset ∧ s.rst = 1 := by
  unfold State.selectRst decode decodeRst at h
  by_cases c : s.rst = 1
  · simp only [if_pos c, Selection.run.injEq] at h
    exact ⟨h.symm, c⟩
  · simp only [if_neg c, reduceCtorEq] at h

/-- What SRC's turn can run: a FRAME. -/
theorem State.selectSrc_run {i : Instr} (h : s.selectSrc = .run i) :
    ∃ u rest, s.wire = u :: rest ∧ i = .frame (wireRecord u) (wireByte u 19) := by
  unfold State.selectSrc decode decodeWire at h
  split at h
  · cases h
  · next u rest e =>
    by_cases c : isFrame u = true
    · simp only [c, if_true, Selection.run.injEq] at h
      exact ⟨u, rest, e, h.symm⟩
    · simp [c] at h

/-- Only SRC's turn delivers bytes that are no frame. -/
theorem State.select_deliver {turn : Turn} {bytes : List Byte} (h : s.select turn = .deliver bytes) : turn = .src := by
  cases turn with
  | src => rfl
  | sync =>
    simp only [State.select, State.selectSync] at h
    split at h
    · cases h
    · split at h
      · cases h
      · split at h
        · cases h
        · exact absurd h selectDecoded_ne_deliver
  | storeP => simp only [State.select, State.selectStoreP] at h; split at h <;> [cases h; (split at h <;> cases h)]
  | storeC => simp only [State.select, State.selectStoreC] at h; split at h <;> [cases h; (split at h <;> cases h)]
  | hostIssue =>
    simp only [State.select, State.selectHostIssue] at h
    split at h
    · cases h
    · exact absurd h selectDecoded_ne_deliver
  | hostReturn => simp only [State.select, State.selectHostReturn] at h; split at h <;> [cases h; (split at h <;> cases h)]
  | rst => simp only [State.select, State.selectRst] at h; split at h <;> cases h

/-- What a step can do: it runs the operation the next agent selects, it waits, or SRC delivers bytes. -/
theorem step_cases (h : step s = .next t) :
    (∃ i, s.advance.select s.nextTurn = .run i ∧ exec i s.advance = .next t) ∨ t = s.advance.quiet ∨
      (s.nextTurn = .src ∧ ∃ bytes, t = s.advance.deliver bytes) := by
  obtain ⟨i, a, b⟩ | a | ⟨bytes, a, b⟩ := State.perform_cases (s := s.advance) h
  · exact .inl ⟨i, a, b⟩
  · exact .inr (.inl a)
  · exact .inr (.inr ⟨State.select_deliver a, bytes, b⟩)

/-! ## Runs -/

@[simp] theorem runSteps_zero (s : State) : runSteps 0 s = .next s := rfl

/-- A run takes its first step and goes on from there. -/
theorem runSteps_succ {k : Nat} (h : step s = .next t) : runSteps (k + 1) s = runSteps k t := by
  simp only [runSteps, h]

/-- A run of `m + k` steps is a run of `m` and then one of `k`. -/
theorem runSteps_add {m k : Nat} (h : runSteps m s = .next t) : runSteps (m + k) s = runSteps k t := by
  induction m generalizing s with
  | zero => injection h with h; subst h; rw [Nat.zero_add]
  | succ m ih =>
    rw [Nat.succ_add]
    cases e : step s with
    | next s' => rw [runSteps_succ e] at h ⊢; exact ih h
    | fault r => simp only [runSteps, e, reduceCtorEq] at h
    | refused r => simp only [runSteps, e, reduceCtorEq] at h

/-- A host's run, one step at a time, for any machine. -/
theorem coreRun_next {M : Host.Core} {k : Nat} {s t : M.State} (h : M.step s = .next t) :
    M.run (k + 1) s = M.run k t := by
  simp only [Host.Core.run, h]

theorem coreRun_fault {M : Host.Core} {k : Nat} {s : M.State} {r : M.Fault} (h : M.step s = .fault r) :
    M.run (k + 1) s = .fault r := by
  simp only [Host.Core.run, h]

theorem coreRun_refused {M : Host.Core} {k : Nat} {s : M.State} {r : M.Refusal} (h : M.step s = .refused r) :
    M.run (k + 1) s = .refused r := by
  simp only [Host.Core.run, h]

/-- The run is the host's run of the machine. -/
theorem runSteps_eq_core (k : Nat) (s : State) : runSteps k s = core.run k s := by
  induction k generalizing s with
  | zero => rfl
  | succ k ih =>
    unfold runSteps
    cases e : step s with
    | next s' => exact (ih s').trans (coreRun_next (M := core) (s := s) (t := s') e).symm
    | fault r => exact (coreRun_fault (M := core) (s := s) (r := r) e).symm
    | refused r => exact (coreRun_refused (M := core) (s := s) (r := r) e).symm

end Sys2Proof.Machine
end

