-- ==== Sys2Proof/Laws/Words.lean ====
section
/-! SUPPORT. Laws/Words.lean: the fields of a word built from its fields, and a word rebuilt from its fields. -/

namespace Sys2Proof

/-! ## A field of two bit vectors side by side -/

theorem extract_append_low {n m : Nat} (x : BitVec n) (y : BitVec m) (k l : Nat) (h : k + l ≤ m) :
    (x ++ y).extractLsb' k l = y.extractLsb' k l := by
  apply BitVec.eq_of_getLsbD_eq
  intro i hi
  simp only [BitVec.getLsbD_extractLsb', BitVec.getLsbD_append, hi, decide_true, Bool.true_and]
  rw [if_pos (by omega)]

theorem extract_append_high {n m : Nat} (x : BitVec n) (y : BitVec m) (k l : Nat) :
    (x ++ y).extractLsb' (m + k) l = x.extractLsb' k l := by
  apply BitVec.eq_of_getLsbD_eq
  intro i hi
  simp only [BitVec.getLsbD_extractLsb', BitVec.getLsbD_append, hi, decide_true, Bool.true_and]
  rw [if_neg (by omega)]
  congr 1
  omega

theorem extract_whole {n : Nat} (x : BitVec n) : x.extractLsb' 0 n = x := by
  apply BitVec.eq_of_getLsbD_eq
  intro i hi
  simp [hi]

theorem extract_append_all_low {n m : Nat} (x : BitVec n) (y : BitVec m) : (x ++ y).extractLsb' 0 m = y := by
  rw [extract_append_low x y 0 m (by omega), extract_whole]

theorem extract_append_all_high {n m : Nat} (x : BitVec n) (y : BitVec m) : (x ++ y).extractLsb' m n = x := by
  have h := extract_append_high x y 0 n
  rwa [Nat.add_zero, extract_whole] at h

/-- Two neighbouring fields side by side are one field. -/
theorem extract_join {w : Nat} (v : BitVec w) (k n m : Nat) :
    v.extractLsb' (k + m) n ++ v.extractLsb' k m = v.extractLsb' k (n + m) := by
  apply BitVec.eq_of_getLsbD_eq
  intro i hi
  simp only [BitVec.getLsbD_extractLsb', BitVec.getLsbD_append, hi, decide_true, Bool.true_and]
  by_cases c : i < m
  · simp [c]
  · rw [if_neg c, show k + m + (i - m) = k + i by omega]
    simp only [Bool.and_eq_right_iff_imp, decide_eq_true_eq]
    intro
    omega

/-! ## Source and host words -/

@[simp] theorem srcKind_srcWord (kind : BitVec 2) (data : Byte) : srcKind (srcWord kind data) = kind :=
  extract_append_all_high kind data

@[simp] theorem srcData_srcWord (kind : BitVec 2) (data : Byte) : srcData (srcWord kind data) = data :=
  extract_append_all_low kind data

theorem srcWord_fields (w : BitVec 10) : srcWord (srcKind w) (srcData w) = w :=
  (extract_join w 0 2 8).trans (extract_whole w)

/-- A source word is determined by its kind and its data. -/
theorem srcWord_eq_iff (w : BitVec 10) (kind : BitVec 2) (data : Byte) :
    srcWord kind data = w ↔ srcKind w = kind ∧ srcData w = data := by
  constructor
  · rintro rfl
    simp
  · rintro ⟨rfl, rfl⟩
    exact srcWord_fields w

@[simp] theorem hostOp_hostWord (op : BitVec 2) (arg : BitVec 1) : hostOp (hostWord op arg) = op :=
  extract_append_all_high op arg

@[simp] theorem hostArg_hostWord (op : BitVec 2) (arg : BitVec 1) : hostArg (hostWord op arg) = arg :=
  extract_append_all_low op arg

theorem hostWord_fields (w : BitVec 3) : hostWord (hostOp w) (hostArg w) = w :=
  (extract_join w 0 2 1).trans (extract_whole w)

/-- A host word is determined by its operation and its argument. -/
theorem hostWord_eq_iff (w : BitVec 3) (op : BitVec 2) (arg : BitVec 1) :
    hostWord op arg = w ↔ hostOp w = op ∧ hostArg w = arg := by
  constructor
  · rintro rfl
    simp
  · rintro ⟨rfl, rfl⟩
    exact hostWord_fields w

end Sys2Proof
end

