-- ==== Sys2Proof/Laws/Moves.lean ====
section
/-! SUPPORT. Laws/Moves.lean: everything one step can do, said once: `Moves` has one constructor for each effect, with what
enables it, and `step_moves` says that a step that answers a next state is one of them. A rule about every step is a case
analysis over `Moves`. -/

namespace Sys2Proof.Machine

/-- The effects of one turn from a state whose turn is already taken from the interleaving. -/
inductive Moves (s : State) : Turn → State → Prop where
  | waits (turn : Turn) : Moves s turn s.quiet
  | delivers (bytes : List Byte) : Moves s .src (s.deliver bytes)
  | firstMark (ready : s.InReady) (rest : List (BitVec 10)) (head : s.source = srcWord 0 0xAA :: rest)
      (phase : s.syncState = .seekFirst) :
      Moves s .sync ({ s.consume with syncState := .seekSecond, armed := false }.emit .okQuiet)
  | skips (ready : s.InReady) (w : BitVec 10) (rest : List (BitVec 10)) (head : s.source = w :: rest)
      (kind : srcKind w ≠ 2) (phase : s.syncState = .seekFirst) (l : Label) :
      Moves s .sync ({ s.consume with armed := false }.emit l)
  | secondMark (ready : s.InReady) (rest : List (BitVec 10)) (head : s.source = srcWord 0 0x55 :: rest)
      (phase : s.syncState = .seekSecond) :
      Moves s .sync ({ s.consume with syncState := .readLength }.emit .okQuiet)
  | length (ready : s.InReady) (rest : List (BitVec 10)) (head : s.source = srcWord 0 0x11 :: rest)
      (phase : s.syncState = .readLength) :
      Moves s .sync ({ s.consume with syncState := .readBody, cnt := 0 }.emit .okQuiet)
  | abandons (ready : s.InReady) (w : BitVec 10) (rest : List (BitVec 10)) (head : s.source = w :: rest)
      (kind : srcKind w ≠ 2) (phase : s.syncState ≠ .seekFirst) (l : Label) :
      Moves s .sync (s.consume.resync l)
  | stores (ready : s.InReady) (data : Byte) (rest : List (BitVec 10)) (head : s.source = srcWord 0 data :: rest)
      (phase : s.syncState = .readBody) (room : s.cnt < 18) :
      Moves s .sync ({ s.consume with buf := s.buf.setIfInBounds s.cnt.toNat data, cnt := s.cnt + 1 }.emit .okQuiet)
  | judges (ready : s.InReady) (data : Byte) (rest : List (BitVec 10)) (head : s.source = srcWord 0 data :: rest)
      (phase : s.syncState = .readBody) (full : s.cnt = 18) :
      Moves s .sync { s.consume with buf := s.buf.set 18 data }.judge
  | dies (ready : s.InReady) (w : BitVec 10) (rest : List (BitVec 10)) (head : s.source = w :: rest)
      (kind : srcKind w = 2) :
      Moves s .sync ({ s.consume with fatal := true, loopAlive := false, armed := false }.resync (.eFatal s.syncState s.cnt))
  | arms (ready : s.CheckReady) (run : s.runFlag = true) : Moves s .sync { s with armed := true }.quiet
  | ends (ready : s.CheckReady) (run : s.runFlag = false) :
      Moves s .sync ({ s with loopAlive := false }.emit .loopExit)
  | lowersP (ready : s.LowerPReady) (v : Record) (n : Nat) :
      Moves s .sync { s with pReq := false, pData := v, freeCount := n }.quiet
  | servesP (ready : s.ServePReady) : Moves s .storeP { s.putSlot s.pData with pAck := true }.quiet
  | clearsP (ready : s.ClearPReady) : Moves s .storeP { s with pAck := false }.quiet
  | servesC (ready : s.ServeCReady) : Moves s .storeC { s.captureSlot.emptySlot with cAck := true }.quiet
  | clearsC (ready : s.ClearCReady) : Moves s .storeC { s with cAck := false }.quiet
  | starts (free : ¬s.HostBusy) (mode : s.life = .idle) (head : s.hostOps.head? = some 0b001) :
      Moves s .hostIssue ({ s.popHost with
        runFlag := true, loopAlive := true, syncState := .seekFirst, cnt := 0, armed := false, life := .running }.answer
          (.started true))
  | replies (free : ¬s.HostBusy) (o : Outputs) : Moves s .hostIssue { s.popHost with out := o }
  | stops (free : ¬s.HostBusy) (mode : s.life = .running) (head : s.hostOps.head?.map hostOp = some 1) :
      Moves s .hostIssue { s.popHost with runFlag := false, life := .stopping }.quiet
  | stopsAtOnce (free : ¬s.HostBusy) (mode : s.life = .idle ∨ s.life = .stopped)
      (head : s.hostOps.head?.map hostOp = some 1) :
      Moves s .hostIssue ({ s.popHost with life := .stopped }.answer .stopped)
  | requests (free : ¬s.HostBusy) (ready : s.TakeIdle) : Moves s .hostIssue { s.popHost with cReq := true }.quiet
  | stopReturns (ready : s.StopRetReady) :
      Moves s .hostReturn { s with life := .stopped, out := { hostRet := some .stopped, close := true } }
  | takeReturns (ready : s.LowerCReady) :
      Moves s .hostReturn ({ s with cReq := false }.answer (.taken s.takeResult))
  | resets : s.rst = 1 → Moves s .rst { State.reset with
      source := s.source, hostOps := s.hostOps, wire := s.wire, turns := s.turns, tick := s.tick, freeCount := s.freeCount }

variable {s t : State}

/-- What a guarded operation does is one of the moves if its effect is one. -/
theorem Moves.of_try {turn : Turn} {guard : Prop} [Decidable guard] {next : State} (h : s.tryStep guard next = .next t)
    (m : guard → Moves s turn next) : Moves s turn t := by
  obtain ⟨g, rfl⟩ | ⟨-, rfl⟩ := State.tryStep_cases h
  · exact m g
  · exact .waits turn

theorem Moves.of_accept {here : Prop} [Decidable here] {effect : State → State} (h : s.accept here effect = .next t)
    (m : s.InReady → here → Moves s .sync (effect s.consume)) : Moves s .sync t :=
  Moves.of_try h fun g => m g.1 g.2

theorem Moves.of_issue {here : Prop} [Decidable here] {effect : State → State} (h : s.issue here effect = .next t)
    (m : ¬s.HostBusy → here → Moves s .hostIssue (effect s.popHost)) : Moves s .hostIssue t := by
  obtain ⟨free, ⟨g, rfl⟩ | ⟨-, rfl⟩⟩ := State.issue_cases h
  · exact m free g
  · exact .waits _

/-- The rows a source word can select, each with its condition on the mode (30_encoding R79). -/
inductive SrcRow (m : Mode) : BitVec 10 → Instr → Prop where
  | sfMark0 (p : m.sync = .seekFirst) : SrcRow m (srcWord 0 0xAA) .sfMark0
  | sfSkip (d : Byte) (p : m.sync = .seekFirst) (o : d ≠ 0xAA) : SrcRow m (srcWord 0 d) (.sfSkip d)
  | sfIdle (d : Byte) (p : m.sync = .seekFirst) : SrcRow m (srcWord 1 d) (.sfIdle d)
  | ssMark1 (p : m.sync = .seekSecond) : SrcRow m (srcWord 0 0x55) .ssMark1
  | ssDrop (d : Byte) (p : m.sync = .seekSecond) (o : d ≠ 0x55) : SrcRow m (srcWord 0 d) (.ssDrop d)
  | ssTmo (d : Byte) (p : m.sync = .seekSecond) : SrcRow m (srcWord 1 d) (.ssTmo d)
  | rlLen (p : m.sync = .readLength) : SrcRow m (srcWord 0 0x11) .rlLen
  | rlBadlen (d : Byte) (p : m.sync = .readLength) (o : d ≠ 0x11) : SrcRow m (srcWord 0 d) (.rlBadlen d)
  | rlTmo (d : Byte) (p : m.sync = .readLength) : SrcRow m (srcWord 1 d) (.rlTmo d)
  | rbStore (d : Byte) (p : m.sync = .readBody) (c : m.cnt < 18) : SrcRow m (srcWord 0 d) (.rbStore d)
  | rbLast (d : Byte) (p : m.sync = .readBody) (c : m.cnt = 18) : SrcRow m (srcWord 0 d) (.rbLast d)
  | rbTmo (d : Byte) (p : m.sync = .readBody) : SrcRow m (srcWord 1 d) (.rbTmo d)
  | xFatal (d : Byte) : SrcRow m (srcWord 2 d) (.xFatal d)
  | srcRsvd (d : Byte) : SrcRow m (srcWord 3 d) (.srcRsvd d)

theorem decodeByte_row {m : Mode} {d : Byte} {i : Instr} (h : decodeByte m d = .ok i) : SrcRow m (srcWord 0 d) i := by
  unfold decodeByte at h
  split at h
  · next p =>
    by_cases c : d = 0xAA
    · rw [if_pos c] at h; injection h with h; subst h; rw [c]; exact .sfMark0 p
    · rw [if_neg c] at h; injection h with h; subst h; exact .sfSkip d p c
  · next p =>
    by_cases c : d = 0x55
    · rw [if_pos c] at h; injection h with h; subst h; rw [c]; exact .ssMark1 p
    · rw [if_neg c] at h; injection h with h; subst h; exact .ssDrop d p c
  · next p =>
    by_cases c : d = 0x11
    · rw [if_pos c] at h; injection h with h; subst h; rw [c]; exact .rlLen p
    · rw [if_neg c] at h; injection h with h; subst h; exact .rlBadlen d p c
  · next p =>
    split at h
    · next c => injection h with h; subst h; exact .rbStore d p c
    · split at h
      · next c => injection h with h; subst h; exact .rbLast d p c
      · cases h

theorem decodeTimeout_row {m : Mode} (d : Byte) : SrcRow m (srcWord 1 d) (decodeTimeout m d) := by
  unfold decodeTimeout
  split
  · next p => exact .sfIdle d p
  · next p => exact .ssTmo d p
  · next p => exact .rlTmo d p
  · next p => exact .rbTmo d p

theorem kind_cases (k : BitVec 2) : k = 0 ∨ k = 1 ∨ k = 2 ∨ k = 3 := by
  revert k; decide

/-- Whatever a source word decodes to, it selects by one of the rows. -/
theorem decodeSrc_row {m : Mode} {w : BitVec 10} {i : Instr} (h : decode m (.src w) = .ok i) : SrcRow m w i := by
  have h : decodeSrc m w = .ok i := h
  rw [← srcWord_fields w]
  unfold decodeSrc at h
  obtain k | k | k | k := kind_cases (srcKind w) <;> rw [k] at h ⊢
  · exact decodeByte_row h
  · injection h with h; subst h; exact decodeTimeout_row _
  · injection h with h; subst h; exact .xFatal _
  · injection h with h; subst h; exact .srcRsvd _

/-- The rows a host word can select, each with its condition on the mode (30_encoding R80). -/
inductive HostRow (m : Mode) : BitVec 3 → Instr → Prop where
  | startOk (l : m.life = .idle) : HostRow m (hostWord 0 1) .startOk
  | startFail (l : m.life = .idle) : HostRow m (hostWord 0 0) .startFail
  | startRej (a : BitVec 1) (l : m.life = .running ∨ m.life = .stopped) : HostRow m (hostWord 0 a) (.startRej a)
  | stop (a : BitVec 1) (l : m.life = .running) : HostRow m (hostWord 1 a) (.stop a)
  | stopIdle (a : BitVec 1) (l : m.life = .idle ∨ m.life = .stopped) : HostRow m (hostWord 1 a) (.stopIdle a)
  | take (a : BitVec 1) (l : m.life ≠ .stopping) : HostRow m (hostWord 2 a) (.take a)
  | stat (a : BitVec 1) (l : m.life ≠ .stopping) : HostRow m (hostWord 3 a) (.stat a)

theorem arg_cases (a : BitVec 1) : a = 0 ∨ a = 1 := by
  revert a; decide

/-- Whatever a host word decodes to, it selects by one of the rows. -/
theorem decodeHost_row {m : Mode} {w : BitVec 3} {i : Instr} (h : decode m (.host w) = .ok i) : HostRow m w i := by
  have h : decodeHost m w = .ok i := h
  rw [← hostWord_fields w]
  unfold decodeHost at h
  split at h
  · cases h
  · next s =>
    obtain k | k | k | k := kind_cases (hostOp w) <;> rw [k] at h ⊢
    · cases l : m.life with
      | idle =>
        rw [if_pos rfl, l, if_pos rfl] at h
        injection h with h
        subst h
        obtain a | a := arg_cases (hostArg w) <;> rw [a]
        · exact .startFail l
        · exact .startOk l
      | running => rw [if_pos rfl, l, if_neg nofun] at h; injection h with h; subst h; exact .startRej _ (.inl l)
      | stopping => exact absurd l s
      | stopped => rw [if_pos rfl, l, if_neg nofun] at h; injection h with h; subst h; exact .startRej _ (.inr l)
    · cases l : m.life with
      | idle => rw [l] at h; injection h with h; subst h; exact .stopIdle _ (.inl l)
      | running => rw [l] at h; injection h with h; subst h; exact .stop _ l
      | stopping => exact absurd l s
      | stopped => rw [l] at h; injection h with h; subst h; exact .stopIdle _ (.inr l)
    · injection h with h; subst h; exact .take _ s
    · injection h with h; subst h; exact .stat _ s

/-- The accepted event of SYNC's turn. -/
theorem Moves.of_src {w : BitVec 10} {rest : List (BitVec 10)} {i : Instr} (e : s.source = w :: rest)
    (dec : decode s.mode (.src w) = .ok i) (h : exec i s = .next t) : Moves s .sync t := by
  have kd : ∀ d : Byte, srcKind (srcWord 0 d) ≠ 2 := fun d => by rw [srcKind_srcWord]; decide
  have kt : ∀ d : Byte, srcKind (srcWord 1 d) ≠ 2 := fun d => by rw [srcKind_srcWord]; decide
  cases decodeSrc_row dec with
  | sfMark0 p => simp only [exec, execSfMark0] at h; exact .of_accept h fun r g => .firstMark r rest e g
  | sfSkip d p o => simp only [exec, execSfSkip] at h; exact .of_accept h fun r g => .skips r _ rest e (kd d) g _
  | sfIdle d p => simp only [exec, execSfIdle] at h; exact .of_accept h fun r g => .skips r _ rest e (kt d) g _
  | ssMark1 p => simp only [exec, execSsMark1] at h; exact .of_accept h fun r g => .secondMark r rest e g
  | ssDrop d p o => simp only [exec, execSsDrop] at h; exact .of_accept h fun r g => .abandons r _ rest e (kd d) (by rw [g]; decide) _
  | ssTmo d p => simp only [exec, execSsTmo] at h; exact .of_accept h fun r g => .abandons r _ rest e (kt d) (by rw [g]; decide) _
  | rlLen p => simp only [exec, execRlLen] at h; exact .of_accept h fun r g => .length r rest e g
  | rlBadlen d p o => simp only [exec, execRlBadlen] at h; exact .of_accept h fun r g => .abandons r _ rest e (kd d) (by rw [g]; decide) _
  | rlTmo d p => simp only [exec, execRlTmo] at h; exact .of_accept h fun r g => .abandons r _ rest e (kt d) (by rw [g]; decide) _
  | rbStore d p c => simp only [exec, execRbStore] at h; exact .of_accept h fun r g => .stores r d rest e g.1 g.2
  | rbLast d p c => simp only [exec, execRbLast] at h; exact .of_accept h fun r g => .judges r d rest e g.1 g.2
  | rbTmo d p => simp only [exec, execRbTmo] at h; exact .of_accept h fun r g => .abandons r _ rest e (kt d) (by rw [g]; decide) _
  | xFatal d => simp only [exec, execXFatal] at h; exact .of_accept h fun r _ => .dies r _ rest e (srcKind_srcWord 2 d)
  | srcRsvd d => cases h

/-- The host operation of HOST's turn. -/
theorem Moves.of_host {w : BitVec 3} {rest : List (BitVec 3)} {i : Instr} (e : s.hostOps = w :: rest)
    (dec : decode s.mode (.host w) = .ok i) (h : exec i s = .next t) : Moves s .hostIssue t := by
  cases decodeHost_row dec with
  | startOk l => simp only [exec, execStartOk] at h; exact .of_issue h fun f g => .starts f g (by rw [e]; rfl)
  | startFail l => simp only [exec, execStartFail] at h; exact .of_issue h fun f _ => .replies f _
  | startRej a l => simp only [exec, execStartRej] at h; exact .of_issue h fun f _ => .replies f _
  | stop a l => simp only [exec, execStop] at h; exact .of_issue h fun f g => .stops f g (by rw [e]; simp)
  | stopIdle a l => simp only [exec, execStopIdle] at h; exact .of_issue h fun f g => .stopsAtOnce f g (by rw [e]; simp)
  | take a l => simp only [exec, execTake] at h; exact .of_issue h fun f g => .requests f g
  | stat a l => simp only [exec, execStat] at h; exact .of_issue h fun f _ => .replies f _

/-- Every step that answers a next state is one of the moves. -/
theorem step_moves (h : step s = .next t) : Moves s.advance s.nextTurn t := by
  obtain ⟨i, sel, run⟩ | rfl | ⟨turn, bytes, rfl⟩ := step_cases h
  · revert sel
    cases s.nextTurn with
    | src =>
      intro sel
      obtain ⟨u, rest, e, rfl⟩ := State.selectSrc_run sel
      injection run with run
      subst run
      exact .delivers _
    | sync =>
      intro sel
      obtain ⟨rfl, g⟩ | ⟨rfl, g⟩ | ⟨-, -, w, rest, e, d⟩ := State.selectSync_run sel
      · simp only [exec, execPLower] at run; exact .of_try run fun g => .lowersP g _ _
      · simp only [exec, execCheck] at run
        refine .of_try run fun g => ?_
        by_cases r : s.advance.runFlag = true
        · rw [if_pos r]; exact .arms g r
        · rw [if_neg r]; exact .ends g (Bool.eq_false_iff.mpr r)
      · exact .of_src e d run
    | storeP =>
      intro sel
      obtain ⟨rfl, g⟩ | ⟨rfl, g⟩ := State.selectStoreP_run sel
      · simp only [exec, execSServeP] at run; exact .of_try run .servesP
      · simp only [exec, execSClearP] at run; exact .of_try run .clearsP
    | storeC =>
      intro sel
      obtain ⟨rfl, g⟩ | ⟨rfl, g⟩ := State.selectStoreC_run sel
      · simp only [exec, execSServeC] at run; exact .of_try run .servesC
      · simp only [exec, execSClearC] at run; exact .of_try run .clearsC
    | hostIssue =>
      intro sel
      obtain ⟨w, rest, e, d⟩ := State.selectHostIssue_run sel
      exact .of_host e d run
    | hostReturn =>
      intro sel
      obtain ⟨rfl, g⟩ | ⟨rfl, g⟩ := State.selectHostReturn_run sel
      · simp only [exec, execStopRet] at run; exact .of_try run .stopReturns
      · simp only [exec, execCLower] at run; exact .of_try run .takeReturns
    | rst =>
      intro sel
      obtain ⟨rfl, r⟩ := State.selectRst_run sel
      injection run with run
      subst run
      exact .resets r
  · exact .waits _
  · rw [turn]; exact .delivers bytes

end Sys2Proof.Machine
end

