-- ==== Sys2Proof/Machine/Fairness.lean ====
section
/-! DEFINITION. Fairness.lean: infinite runs under any environment and any interleaving, and the two liveness premises the
spec gives: weak fairness of the agents (00_scope R10, 43_latest_value_store R162) and the liveness of the byte source
(60_exceptions R210, 70_reset_and_hazards R226). They are premises of liveness claims, not properties of the machine: the
step admits interleavings that starve an agent and sources that never offer an event. -/

namespace Sys2Proof.Machine

/-! ## Runs -/

/-- What happens between two steps: the environment adds inputs at the ports and drives the reset input (10_state R38), and
the interleaving from here on is any whatever (00_scope R10; log 2). No state element of the block changes. -/
def State.Receives (s u : State) : Prop :=
  ∃ (events : List (BitVec 10)) (ops : List (BitVec 3)) (units : List (BitVec 176)) (r : BitVec 1) (ts : List Turn),
    u = { s with
      source := s.source ++ events, hostOps := s.hostOps ++ ops, wire := s.wire ++ units, rst := r, turns := ts }

/-- An infinite run: `run n` is the state in which the n-th step is taken, and no step stops the machine. -/
def IsRun (run : Nat → State) : Prop := ∀ n, ∃ t, step (run n) = .next t ∧ t.Receives (run (n + 1))

/-- The n-th step of a run is a RESET. -/
abbrev ResetAt (run : Nat → State) (n : Nat) : Prop := (run n).nextTurn = .rst ∧ (run n).rst = 1

/-! ## Weak fairness of the agents -/

/-- The agent's step is enabled: its turn would not be spent waiting. -/
def State.Enabled (s : State) : Turn → Prop
  | .src => s.wire ≠ []
  | .sync => s.LowerPReady ∨ s.CheckReady ∨ (s.InReady ∧ s.source ≠ [])
  | .storeP => s.ServePReady ∨ s.ClearPReady
  | .storeC => s.ServeCReady ∨ s.ClearCReady
  | .hostIssue => s.hostOps ≠ [] ∧ ¬s.HostBusy ∧ (s.hostOps.head?.map hostOp = some 2 → s.TakeIdle)
  | .hostReturn => s.StopRetReady ∨ s.LowerCReady
  | .rst => s.rst = 1

/-- Weak fairness: an agent whose step stays enabled eventually takes it (00_scope R10). For STORE it gives that a pending
request is eventually served (43_latest_value_store R162). -/
def WeaklyFair (run : Nat → State) : Prop :=
  ∀ (turn : Turn) (n : Nat), (∀ m, n ≤ m → (run m).Enabled turn) → ∃ m, n ≤ m ∧ (run m).nextTurn = turn

/-! ## Liveness of the byte source -/

/-- While SYNC is ready to accept, the source eventually offers some event: a byte, a TIMEOUT or a FATAL (60_exceptions
R210). It is the fairness premise on SRC that 70_reset_and_hazards R226 asks for. -/
def SourceLive (run : Nat → State) : Prop :=
  ∀ n, (∀ m, n ≤ m → (run m).InReady) → ∃ m, n ≤ m ∧ (run m).source ≠ []

/-- STOP returns in the n-th step of a run: HOST's turn to return, with STOP_RET enabled (44_lifecycle_control R176). -/
abbrev StopReturnsAt (run : Nat → State) (n : Nat) : Prop := (run n).nextTurn = .hostReturn ∧ (run n).StopRetReady

end Sys2Proof.Machine
end

