-- ==== Sys2Proof/Laws/Fairness.lean ====
section
/-! SUPPORT. Laws/Fairness.lean: what the liveness premises give: a pending publish or take is eventually served
(43_latest_value_store R162), STOP eventually returns (44_lifecycle_control R176), and without the premise on the source it
need not (70_reset_and_hazards R226). Each holds unless a RESET intervenes. -/

namespace Sys2Proof.Machine

variable {run : Nat → State} {s t u : State}

/-! ## Between two steps -/

/-- Between two steps only the ports and the interleaving change. -/
theorem State.Receives.eq (h : t.Receives u) :
    u = { t with source := u.source, hostOps := u.hostOps, wire := u.wire, rst := u.rst, turns := u.turns } := by
  obtain ⟨e, o, w, r, ts, rfl⟩ := h
  rfl

theorem State.Receives.source_ne_nil (h : t.Receives u) (ne : t.source ≠ []) : u.source ≠ [] := by
  obtain ⟨e, o, w, r, ts, rfl⟩ := h
  simp [ne]

/-- Each state of a run comes from the one before by a move and the environment's inputs. -/
theorem IsRun.moves (h : IsRun run) (n : Nat) :
    ∃ t, step (run n) = .next t ∧ Moves (run n).advance (run n).nextTurn t ∧ t.Receives (run (n + 1)) := by
  obtain ⟨t, e, r⟩ := h n
  exact ⟨t, e, step_moves e, r⟩

/-- A property of the states of a run that each step keeps holds from there on. -/
theorem holds_from {P : Nat → Prop} {n : Nat} (start : P n) (keep : ∀ m, n ≤ m → P m → P (m + 1)) :
    ∀ m, n ≤ m → P m := fun _ le => Nat.le_induction start keep _ le

/-! ## Requests are served -/

/-- A frame's judgement is no step while a publish is requested. -/
theorem not_inReady_of_pReq (h : s.pReq = true) : ¬s.InReady := fun r => by
  have := r.2.1.1
  rw [h] at this
  cases this

/-- A pending publish stays pending, with its Record, until STORE serves it or a RESET comes. -/
theorem Moves.servePReady {turn : Turn} (m : Moves s turn t) (h : s.ServePReady)
    (no : ¬(turn = .storeP) ∧ ¬(turn = .rst ∧ s.rst = 1)) : t.ServePReady ∧ t.pData = s.pData := by
  have busy := not_inReady_of_pReq h.1
  have notBoth : ¬s.LowerPReady := fun g => by have := g.2; rw [h.2] at this; cases this
  have unchecked : ¬s.CheckReady := fun g => by have := g.2.2.2.1; rw [h.1] at this; cases this
  cases m with
  | lowersP g => exact absurd g notBoth
  | arms g => exact absurd g unchecked
  | ends g => exact absurd g unchecked
  | servesP => exact absurd rfl no.1
  | clearsP => exact absurd rfl no.1
  | resets r => exact absurd ⟨rfl, r⟩ no.2
  | waits => exact ⟨h, rfl⟩
  | delivers => exact ⟨h, rfl⟩
  | servesC => exact ⟨h, rfl⟩
  | clearsC => exact ⟨h, rfl⟩
  | starts => exact ⟨h, rfl⟩
  | replies => exact ⟨h, rfl⟩
  | stops => exact ⟨h, rfl⟩
  | stopsAtOnce => exact ⟨h, rfl⟩
  | requests => exact ⟨h, rfl⟩
  | stopReturns => exact ⟨h, rfl⟩
  | takeReturns => exact ⟨h, rfl⟩
  | _ ready => exact absurd ready busy

/-- A pending take stays pending until STORE serves it or a RESET comes. -/
theorem Moves.serveCReady {turn : Turn} (m : Moves s turn t) (h : s.ServeCReady)
    (no : ¬(turn = .storeC) ∧ ¬(turn = .rst ∧ s.rst = 1)) : t.ServeCReady := by
  have busy : s.HostBusy := .inr h.1
  cases m with
  | judges =>
    obtain ⟨l, ⟨e, -⟩ | ⟨e, -⟩⟩ := State.judge_cases { s.consume with buf := s.buf.set 18 ‹Byte› } <;> rw [e] <;> exact h
  | servesC => exact absurd rfl no.1
  | clearsC => exact absurd rfl no.1
  | starts free => exact absurd busy free
  | replies free => exact absurd busy free
  | stops free => exact absurd busy free
  | stopsAtOnce free => exact absurd busy free
  | requests free => exact absurd busy free
  | takeReturns g => have := g.2; rw [h.2] at this; cases this
  | resets r => exact absurd ⟨rfl, r⟩ no.2
  | _ => exact h

/-- R162: under weak fairness a pending publish is eventually served, with the Record that was requested. -/
theorem publish_eventually_served (h : IsRun run) (fair : WeaklyFair run) {n : Nat} (pending : (run n).ServePReady) :
    ∃ m, n ≤ m ∧ (((run m).nextTurn = .storeP ∧ (run m).ServePReady ∧ (run m).pData = (run n).pData) ∨ ResetAt run m) := by
  by_contra never
  have stays : ∀ m, n ≤ m → (run m).ServePReady ∧ (run m).pData = (run n).pData := by
    refine holds_from ⟨pending, rfl⟩ fun m le p => ?_
    obtain ⟨t, -, move, r⟩ := h.moves m
    have kept := move.servePReady p.1 ⟨fun e => never ⟨m, le, .inl ⟨e, p⟩⟩, fun e => never ⟨m, le, .inr e⟩⟩
    rw [r.eq]
    exact ⟨kept.1, kept.2.trans p.2⟩
  obtain ⟨m, le, e⟩ := fair .storeP n fun m le => .inl (stays m le).1
  exact never ⟨m, le, .inl ⟨e, stays m le⟩⟩

/-- R162: under weak fairness a pending take is eventually served. -/
theorem take_eventually_served (h : IsRun run) (fair : WeaklyFair run) {n : Nat} (pending : (run n).ServeCReady) :
    ∃ m, n ≤ m ∧ (((run m).nextTurn = .storeC ∧ (run m).ServeCReady) ∨ ResetAt run m) := by
  by_contra never
  have stays : ∀ m, n ≤ m → (run m).ServeCReady := by
    refine holds_from pending fun m le p => ?_
    obtain ⟨t, -, move, r⟩ := h.moves m
    have kept := move.serveCReady p ⟨fun e => never ⟨m, le, .inl ⟨e, p⟩⟩, fun e => never ⟨m, le, .inr e⟩⟩
    rw [r.eq]
    exact kept
  obtain ⟨m, le, e⟩ := fair .storeC n fun m le => .inl (stays m le)
  exact never ⟨m, le, .inl ⟨e, stays m le⟩⟩

/-! ## A ready SYNC accepts -/

/-- The only reason a source word is rejected is a count out of range (10_state R22). -/
theorem decodeSrc_error {m : Mode} {w : BitVec 10} {x : DecodeError} (h : decode m (.src w) = .error x) :
    x = .countOutOfRange := by
  simp only [decode, decodeSrc, decodeByte] at h
  split at h
  · split at h
    · cases h
    · cases h
    · cases h
    · split at h <;> [cases h; (split at h <;> cases h; rfl)]
  · split at h <;> [cases h; (split at h <;> cases h)]

/-- A step of SYNC that is ready for the event at the source accepts it. -/
theorem step_accepts {w : BitVec 10} {rest : List (BitVec 10)} (turn : s.nextTurn = .sync) (r : s.InReady)
    (e : s.source = w :: rest) (h : step s = .next t) : t.source = rest := by
  have notBoth : ¬s.advance.LowerPReady := fun g => nomatch r.2.1.1.symm.trans g.1
  have unchecked : ¬s.advance.CheckReady := fun g => r.2.2.elim (· g.2.1) fun a => nomatch a.symm.trans g.2.2.1
  have tail : s.advance.consume.source = rest := congrArg List.tail e
  rw [step_eq, turn] at h
  simp only [State.agentStep, State.select, State.selectSync, if_neg notBoth, if_neg unchecked,
    show s.advance.source = w :: rest from e] at h
  cases d : decode s.advance.mode (.src w) with
  | error x => rw [d, decodeSrc_error d] at h; cases h
  | ok i =>
    rw [d] at h
    have h : exec i s.advance = .next t := h
    have done {here : Prop} [Decidable here] {effect : State → State} (h : s.advance.accept here effect = .next t)
        (g : here) (k : ∀ u : State, (effect u).source = u.source) : t.source = rest := by
      rw [State.accept_of (s := s.advance) r g] at h
      injection h with h
      rw [← h, k, tail]
    cases decodeSrc_row d with
    | sfMark0 p => simp only [exec, execSfMark0] at h; exact done h p fun _ => rfl
    | sfSkip d p => simp only [exec, execSfSkip] at h; exact done h p fun _ => rfl
    | sfIdle d p => simp only [exec, execSfIdle] at h; exact done h p fun _ => rfl
    | ssMark1 p => simp only [exec, execSsMark1] at h; exact done h p fun _ => rfl
    | ssDrop d p => simp only [exec, execSsDrop] at h; exact done h p fun _ => rfl
    | ssTmo d p => simp only [exec, execSsTmo] at h; exact done h p fun _ => rfl
    | rlLen p => simp only [exec, execRlLen] at h; exact done h p fun _ => rfl
    | rlBadlen d p => simp only [exec, execRlBadlen] at h; exact done h p fun _ => rfl
    | rlTmo d p => simp only [exec, execRlTmo] at h; exact done h p fun _ => rfl
    | rbStore d p c => simp only [exec, execRbStore] at h; exact done h ⟨p, c⟩ fun _ => rfl
    | rbLast b p c =>
      simp only [exec, execRbLast] at h
      refine done h ⟨p, c⟩ fun u => ?_
      obtain ⟨l, ⟨e, -⟩ | ⟨e, -⟩⟩ := State.judge_cases { u with buf := u.buf.set 18 b } <;> rw [e] <;> rfl
    | rbTmo d p => simp only [exec, execRbTmo] at h; exact done h p fun _ => rfl
    | xFatal d => simp only [exec, execXFatal] at h; exact done h trivial fun _ => rfl
    | srcRsvd d => cases h

/-! ## STOP returns -/

/-- STOP has been issued, the loop is alive, and the clauses of the invariant that its end rests on (10_state R40). -/
structure State.Winding (s : State) : Prop where
  stopping : s.life = .stopping
  flag : s.runFlag = false
  alive : s.loopAlive = true
  armed_seeking : s.armed = true → s.syncState = .seekFirst
  publish_holds : s.pReq = true ∨ s.pAck = true → s.syncState = .seekFirst ∧ s.armed = false

/-- How many steps of SYNC and STORE, at most, still stand before the CHECK that ends the loop. -/
def State.toEnd (s : State) : Nat :=
  match s.syncState with
  | .seekFirst =>
    if s.armed then 39
    else match s.pReq, s.pAck with
      | false, false => 0
      | false, true => 1
      | true, true => 2
      | true, false => 3
  | .seekSecond => 38
  | .readLength => 37
  | .readBody => 36 - s.cnt.toNat

/-- The agent whose step brings the loop nearer to its end. -/
def State.ender (s : State) : Turn := if s.pReq = s.pAck then .sync else .storeP

theorem State.toEnd_le (p : s.syncState = .seekFirst) (a : s.armed = false) : s.toEnd ≤ 3 := by
  simp only [State.toEnd, p, a]
  cases s.pReq <;> cases s.pAck <;> decide

theorem State.toEnd_of_inReady (r : s.InReady) : 3 < s.toEnd := by
  have c := s.cnt.isLt
  obtain ⟨-, -, p⟩ := r
  cases q : s.syncState <;> simp_all [State.toEnd]
  omega

/-- Accepting an event leaves the loop winding where it keeps it alive and `armed` down. -/
theorem State.Winding.of_event (w : s.Winding) (r : s.InReady) (e : t.life = s.life ∧ t.runFlag = s.runFlag ∧
    t.loopAlive = s.loopAlive ∧ t.armed = false ∧ t.pReq = s.pReq ∧ t.pAck = s.pAck) : t.Winding := by
  obtain ⟨e1, e2, e3, e4, e5, e6⟩ := e
  refine ⟨e1.trans w.stopping, e2.trans w.flag, e3.trans w.alive, fun h => ?_, fun h => ?_⟩
  · rw [e4] at h; cases h
  · rw [e5, e6, r.2.1.1, r.2.1.2] at h; simp at h

/-- SYNC is unarmed in every phase but SeekFirst. -/
theorem State.Winding.unarmed (w : s.Winding) (p : s.syncState ≠ .seekFirst) : s.armed = false :=
  Bool.eq_false_iff.mpr fun a => p (w.armed_seeking a)

/-- While the loop winds down each step ends it, brings it nearer to its end, or leaves it where it is; and a step of SYNC
or of STORE's publish side that does the last is a wait. -/
theorem Moves.winding {turn : Turn} (m : Moves s turn t) (w : s.Winding) (no : ¬(turn = .rst ∧ s.rst = 1)) :
    t.StopRetReady ∨
      (t.Winding ∧ (t.toEnd < s.toEnd ∨
        (t.toEnd = s.toEnd ∧ t.ender = s.ender ∧ (s.source ≠ [] → t.source ≠ []) ∧
          (turn = .sync ∨ turn = .storeP → t = s.quiet)))) := by
  have busy : s.HostBusy := .inl w.stopping
  have same := w
  obtain ⟨l, f, a, as, ph⟩ := same
  cases m with
  | firstMark r rest h p =>
    have ar := r.2.2.resolve_left (· p)
    exact .inr ⟨w.of_event r ⟨rfl, rfl, rfl, rfl, rfl, rfl⟩, .inl (by simp [State.toEnd, p, ar])⟩
  | skips r v rest h k p =>
    exact .inr ⟨w.of_event r ⟨rfl, rfl, rfl, rfl, rfl, rfl⟩,
      .inl (Nat.lt_of_le_of_lt (State.toEnd_le p rfl) (State.toEnd_of_inReady r))⟩
  | secondMark r rest h p =>
    exact .inr ⟨w.of_event r ⟨rfl, rfl, rfl, w.unarmed (by rw [p]; decide), rfl, rfl⟩, .inl (by simp [State.toEnd, p])⟩
  | length r rest h p =>
    exact .inr ⟨w.of_event r ⟨rfl, rfl, rfl, w.unarmed (by rw [p]; decide), rfl, rfl⟩, .inl (by simp [State.toEnd, p])⟩
  | abandons r v rest h k p =>
    have un := w.unarmed p
    exact .inr ⟨w.of_event r ⟨rfl, rfl, rfl, un, rfl, rfl⟩,
      .inl (Nat.lt_of_le_of_lt (State.toEnd_le rfl un) (State.toEnd_of_inReady r))⟩
  | stores r d rest h p room =>
    refine .inr ⟨w.of_event r ⟨rfl, rfl, rfl, w.unarmed (by rw [p]; decide), rfl, rfl⟩, .inl ?_⟩
    simp only [State.toEnd, State.consume, State.emit, p]
    bv_omega
  | judges r d rest h p full =>
    have un := w.unarmed (by rw [p]; decide)
    obtain ⟨e, ⟨h, -⟩ | ⟨h, -⟩⟩ := State.judge_cases { s.consume with buf := s.buf.set 18 d } <;> rw [h]
    · exact .inr ⟨w.of_event r ⟨rfl, rfl, rfl, un, rfl, rfl⟩,
        .inl (Nat.lt_of_le_of_lt (State.toEnd_le rfl un) (State.toEnd_of_inReady r))⟩
    · exact .inr ⟨⟨l, f, a, fun x => (nomatch un.symm.trans x), fun _ => ⟨rfl, un⟩⟩,
        .inl (Nat.lt_of_le_of_lt (State.toEnd_le rfl un) (State.toEnd_of_inReady r))⟩
  | dies r v rest h k => exact .inl ⟨l, rfl⟩
  | arms _ r => rw [f] at r; cases r
  | ends => exact .inl ⟨l, rfl⟩
  | lowersP g =>
    have p := ph (.inl g.1)
    exact .inr ⟨⟨l, f, a, as, fun _ => p⟩, .inl (by simp [State.toEnd, State.quiet, p, g])⟩
  | servesP g =>
    have p := ph (.inl g.1)
    exact .inr ⟨⟨l, f, a, as, fun _ => p⟩, .inl (by simp [State.toEnd, State.quiet, State.putSlot, p, g])⟩
  | clearsP g =>
    have p := ph (.inr g.2)
    exact .inr ⟨⟨l, f, a, as, fun _ => p⟩, .inl (by simp [State.toEnd, State.quiet, p, g])⟩
  | starts free => exact absurd busy free
  | replies free => exact absurd busy free
  | stops free => exact absurd busy free
  | stopsAtOnce free => exact absurd busy free
  | requests free => exact absurd busy free
  | stopReturns r => exact nomatch a.symm.trans r.2
  | resets r => exact absurd ⟨rfl, r⟩ no
  | waits => exact .inr ⟨⟨l, f, a, as, ph⟩, .inr ⟨rfl, rfl, id, fun _ => rfl⟩⟩
  | delivers => exact .inr ⟨⟨l, f, a, as, ph⟩, .inr ⟨rfl, rfl, fun ne => by simp [ne], by simp⟩⟩
  | servesC => exact .inr ⟨⟨l, f, a, as, ph⟩, .inr ⟨rfl, rfl, id, by simp⟩⟩
  | clearsC => exact .inr ⟨⟨l, f, a, as, ph⟩, .inr ⟨rfl, rfl, id, by simp⟩⟩
  | takeReturns => exact .inr ⟨⟨l, f, a, as, ph⟩, .inr ⟨rfl, rfl, id, by simp⟩⟩

/-- Where its step is enabled, the agent that brings a winding loop nearer to its end does not wait. -/
theorem State.Winding.step_ne_quiet (w : s.Winding) (turn : s.nextTurn = s.ender) (on : s.Enabled s.ender)
    (h : step s = .next t) : t ≠ s.advance.quiet := by
  intro same
  subst same
  unfold State.ender at turn on
  by_cases eq : s.pReq = s.pAck
  · rw [if_pos eq] at turn on
    obtain g | g | ⟨r, ne⟩ := on
    · have h' := h
      rw [step_eq, turn] at h'
      simp only [State.agentStep, State.select, State.selectSync, if_pos (show s.advance.LowerPReady from g),
        State.perform, exec, execPLower, State.tryStep_of (show s.advance.LowerPReady from g)] at h'
      injection h' with h'
      exact nomatch (congrArg State.pReq h').trans g.1
    · have n : ¬s.advance.LowerPReady := fun x => nomatch g.2.2.2.1.symm.trans x.1
      rw [step_eq, turn] at h
      simp only [State.agentStep, State.select, State.selectSync, if_neg n, if_pos (show s.advance.CheckReady from g),
        State.perform, exec, execCheck, State.tryStep_of (show s.advance.CheckReady from g)] at h
      rw [if_neg (by rw [show s.advance.runFlag = false from w.flag]; decide)] at h
      injection h with h
      exact nomatch (congrArg State.loopAlive h).trans w.alive
    · obtain ⟨v, rest, e⟩ := List.exists_cons_of_ne_nil ne
      have := (step_accepts turn r e h).symm.trans e
      exact absurd (congrArg List.length this) (by simp)
  · rw [if_neg eq] at turn on
    rw [step_eq, turn] at h
    by_cases g : s.advance.ServePReady
    · simp only [State.agentStep, State.select, State.selectStoreP, if_pos g, State.perform, exec, execSServeP,
        State.tryStep_of g] at h
      injection h with h
      exact nomatch (congrArg State.pAck h).trans g.2
    · have c : s.advance.ClearPReady := on.resolve_left g
      simp only [State.agentStep, State.select, State.selectStoreP, if_neg g, if_pos c, State.perform, exec, execSClearP,
        State.tryStep_of c] at h
      injection h with h
      exact nomatch (congrArg State.pAck h).trans c.2

/-- While the loop winds down, the agent that brings it nearer to its end is enabled, or SYNC waits for the source. -/
theorem State.Winding.enabled (w : s.Winding) : s.Enabled s.ender ∨ (s.InReady ∧ s.ender = .sync ∧ s.source = []) := by
  unfold State.ender
  by_cases idle : s.PublishIdle
  · have eq : s.pReq = s.pAck := idle.1.trans idle.2.symm
    rw [if_pos eq]
    by_cases r : s.syncState ≠ .seekFirst ∨ s.armed = true
    · by_cases ne : s.source = []
      · exact .inr ⟨⟨w.alive, idle, r⟩, rfl, ne⟩
      · exact .inl (.inr (.inr ⟨⟨w.alive, idle, r⟩, ne⟩))
    · rw [not_or, not_not, Bool.not_eq_true] at r
      exact .inl (.inr (.inl ⟨w.alive, r.1, r.2, idle⟩))
  · cases p : s.pReq <;> cases a : s.pAck
    · exact absurd ⟨p, a⟩ idle
    · exact .inl (.inr ⟨p, a⟩)
    · exact .inl (.inl ⟨p, a⟩)
    · exact .inl (.inl ⟨p, a⟩)

/-- SYNC is ready exactly far from the loop's end. -/
theorem State.Winding.inReady (w : s.Winding) (far : 3 < s.toEnd) : s.InReady := by
  have r : s.syncState ≠ .seekFirst ∨ s.armed = true := by
    by_contra n
    rw [not_or, not_not, Bool.not_eq_true] at n
    exact absurd far (Nat.not_lt.mpr (State.toEnd_le n.1 n.2))
  have idle : ¬(s.pReq = true ∨ s.pAck = true) := fun h => by
    obtain ⟨p, a⟩ := w.publish_holds h
    exact r.elim (· p) fun x => nomatch a.symm.trans x
  rw [not_or, Bool.not_eq_true, Bool.not_eq_true] at idle
  exact ⟨w.alive, idle, r⟩

/-- While the loop winds down, each step of a run ends it, brings it nearer to its end, or leaves it where it is and is no
step of the agent that could bring it nearer. -/
theorem State.Winding.next (w : s.Winding) (h : step s = .next t) (r : t.Receives u) (no : ¬(s.nextTurn = .rst ∧ s.rst = 1)) :
    u.StopRetReady ∨
      (u.Winding ∧ (u.toEnd < s.toEnd ∨
        (u.toEnd = s.toEnd ∧ u.ender = s.ender ∧ (s.source ≠ [] → u.source ≠ []) ∧
          ¬(s.nextTurn = s.ender ∧ s.Enabled s.ender)))) := by
  have aw : s.advance.Winding := ⟨w.1, w.2, w.3, w.4, w.5⟩
  have more := r.source_ne_nil
  have ready := r.eq
  obtain e | ⟨⟨w1, w2, w3, w4, w5⟩, e⟩ := (step_moves h).winding aw no
  · rw [ready]; exact .inl e
  · refine .inr ⟨by rw [ready]; exact ⟨w1, w2, w3, w4, w5⟩, ?_⟩
    have same : u.toEnd = t.toEnd ∧ u.ender = t.ender := by rw [ready]; exact ⟨rfl, rfl⟩
    rw [same.1, same.2]
    refine e.imp id fun e => ⟨e.1, e.2.1, fun ne => more (e.2.2.1 ne), fun x => ?_⟩
    refine w.step_ne_quiet x.1 x.2 h (e.2.2.2 ?_)
    rw [x.1]
    unfold State.ender
    split <;> simp

/-- Under the two premises a loop that winds down ends, or a RESET comes. -/
theorem winding_ends (h : IsRun run) (fair : WeaklyFair run) (live : SourceLive run) {n : Nat} (w : (run n).Winding) :
    ∃ m, n ≤ m ∧ ((run m).StopRetReady ∨ ResetAt run m) := by
  obtain ⟨k, e⟩ : ∃ k, k = (run n).toEnd := ⟨_, rfl⟩
  induction k using Nat.strong_induction_on generalizing n with
  | _ k ih =>
    by_contra never
    have later : ∀ m, n ≤ m → (run m).Winding → (run m).toEnd = k → (run (m + 1)).Winding ∧
        (run (m + 1)).toEnd = k ∧ (run (m + 1)).ender = (run m).ender ∧
        ((run m).source ≠ [] → (run (m + 1)).source ≠ []) ∧
        ¬((run m).nextTurn = (run m).ender ∧ (run m).Enabled (run m).ender) := by
      intro m le w' e'
      obtain ⟨t, st, r⟩ := h m
      obtain x | ⟨x, y | y⟩ := w'.next st r fun r => never ⟨m, le, .inr r⟩
      · exact absurd ⟨m + 1, by omega, .inl x⟩ never
      · obtain ⟨a, le', f⟩ := ih _ (e' ▸ y) x rfl
        exact absurd ⟨a, by omega, f⟩ never
      · exact ⟨x, y.1.trans e', y.2⟩
    have stays : ∀ m, n ≤ m → (run m).Winding ∧ (run m).toEnd = k ∧ (run m).ender = (run n).ender :=
      holds_from ⟨w, e.symm, rfl⟩ fun m le p =>
        have q := later m le p.1 p.2.1
        ⟨q.1, q.2.1, q.2.2.1.trans p.2.2⟩
    have on : ∃ a, n ≤ a ∧ ∀ m, a ≤ m → (run m).Enabled (run n).ender := by
      by_cases far : 3 < k
      · obtain ⟨a, le, ne⟩ := live n fun m le => (stays m le).1.inReady ((stays m le).2.1 ▸ far)
        refine ⟨a, le, fun m le' => ?_⟩
        have offered : ∀ m, a ≤ m → (run m).source ≠ [] := holds_from ne fun m le' p =>
          have s' := stays m (le.trans le')
          (later m (le.trans le') s'.1 s'.2.1).2.2.2.1 p
        have s' := stays m (le.trans le')
        exact s'.2.2 ▸ s'.1.enabled.resolve_right fun x => offered m le' x.2.2
      · exact ⟨n, Nat.le_refl n, fun m le => (stays m le).2.2 ▸ (stays m le).1.enabled.resolve_right fun x =>
          far ((stays m le).2.1 ▸ State.toEnd_of_inReady x.1)⟩
    obtain ⟨a, le, on⟩ := on
    obtain ⟨m, le', turn⟩ := fair _ a on
    have s' := stays m (le.trans le')
    exact (later m (le.trans le') s'.1 s'.2.1).2.2.2.2 (s'.2.2 ▸ ⟨turn, on m le'⟩)

/-- Once the loop has ended, STOP may return until it does or a RESET comes. -/
theorem Moves.stopRetReady {turn : Turn} (m : Moves s turn t) (h : s.StopRetReady)
    (no : ¬(turn = .hostReturn) ∧ ¬(turn = .rst ∧ s.rst = 1)) : t.StopRetReady := by
  have busy : s.HostBusy := .inl h.1
  have dead : ¬(s.loopAlive = true) := fun a => nomatch h.2.symm.trans a
  cases m with
  | firstMark r => exact absurd r.1 dead
  | skips r => exact absurd r.1 dead
  | secondMark r => exact absurd r.1 dead
  | length r => exact absurd r.1 dead
  | abandons r => exact absurd r.1 dead
  | stores r => exact absurd r.1 dead
  | judges r => exact absurd r.1 dead
  | starts free => exact absurd busy free
  | replies free => exact absurd busy free
  | stops free => exact absurd busy free
  | stopsAtOnce free => exact absurd busy free
  | requests free => exact absurd busy free
  | stopReturns => exact absurd rfl no.1
  | takeReturns => exact absurd rfl no.1
  | resets r => exact absurd ⟨rfl, r⟩ no.2
  | dies => exact ⟨h.1, rfl⟩
  | ends => exact ⟨h.1, rfl⟩
  | _ => exact h

/-- R176, R226: under weak fairness and a live source, STOP once issued eventually returns, or a RESET comes. -/
theorem stop_eventually_returns (h : IsRun run) (fair : WeaklyFair run) (live : SourceLive run) {n : Nat}
    (inv : (run n).Inv) (issued : (run n).life = .stopping) :
    ∃ m, n ≤ m ∧ (StopReturnsAt run m ∨ ResetAt run m) := by
  obtain ⟨a, le, ended⟩ : ∃ a, n ≤ a ∧ ((run a).StopRetReady ∨ ResetAt run a) := by
    cases alive : (run n).loopAlive with
    | false => exact ⟨n, Nat.le_refl n, .inl ⟨issued, alive⟩⟩
    | true =>
      refine winding_ends h fair live ⟨issued, ?_, alive, fun a => (inv.armed_seeking a).1, fun p => (inv.publish_holds p).2⟩
      cases f : (run n).runFlag with
      | false => rfl
      | true => exact nomatch issued.symm.trans (inv.run_running f)
  obtain ended | r := ended
  · by_contra never
    have stays : ∀ m, a ≤ m → (run m).StopRetReady := by
      refine holds_from ended fun m le' p => ?_
      obtain ⟨t, -, move, r⟩ := h.moves m
      have kept := move.stopRetReady p
        ⟨fun e => never ⟨m, le.trans le', .inl ⟨e, p⟩⟩, fun e => never ⟨m, le.trans le', .inr e⟩⟩
      rw [r.eq]
      exact kept
    obtain ⟨m, le', e⟩ := fair .hostReturn a fun m le' => .inl (stays m le')
    exact never ⟨m, le.trans le', .inl ⟨e, stays m le'⟩⟩
  · exact ⟨a, le, .inr r⟩

/-! ## Runs with given turns -/

/-- The run from a state with these turns in this order, and SRC's for ever after; the environment adds no input. -/
def play (s : State) (script : List Turn) : Nat → State
  | 0 => { s with turns := [script.headD .src] }
  | n + 1 =>
    match step (play s script n) with
    | .next t => { t with turns := [script.getD (n + 1) .src] }
    | _ => play s script n

theorem play_succ {script : List Turn} {n : Nat} (h : step (play s script n) = .next t) :
    play s script (n + 1) = { t with turns := [script.getD (n + 1) .src] } := by simp only [play, h]

/-- Nothing is left to do: no agent's step is enabled, and the last step drove nothing. -/
def State.AtRest (s : State) : Prop := (∀ turn, ¬s.Enabled turn) ∧ s.turns = [.src] ∧ s.out = {}

theorem State.AtRest.later (h : s.AtRest) (n : Nat) : State.AtRest { s with tick := n } :=
  ⟨fun turn e => h.1 turn (by cases turn <;> exact e), h.2.1, h.2.2⟩

/-- Where nothing is left to do, a step changes nothing but the model's own counter of turns. -/
theorem State.AtRest.step (h : s.AtRest) : step s = .next { s with turns := [], tick := s.tick + 1 } := by
  obtain ⟨off, ts, o⟩ := h
  have wire : s.advance.wire = [] := not_not.mp (off .src)
  rw [step_eq, show s.nextTurn = .src by unfold State.nextTurn; rw [ts]]
  simp only [State.agentStep, State.select, State.selectSrc, wire, State.perform]
  simp only [State.quiet, State.advance, ts, List.tail, ← o]

/-- A run that has come to rest stays as it is. -/
theorem play_rest {script : List Turn} {k : Nat} (h : (play s script k).AtRest) (len : script.length ≤ k) (n : Nat) :
    play s script (k + n) = { play s script k with tick := (play s script k).tick + n } := by
  induction n with
  | zero => rfl
  | succ n ih =>
    have r : (play s script (k + n)).AtRest := by rw [ih]; exact h.later _
    rw [← Nat.add_assoc, play_succ r.step, ih, List.getD_eq_default _ _ (by omega)]
    rw [← h.2.1, Nat.add_assoc]

/-- A run that comes to rest is a run, and it is fair; the source is live if SYNC is not left ready. -/
theorem play_isRun {script : List Turn} {k : Nat} (h : (play s script k).AtRest) (len : script.length ≤ k)
    (goes : ∀ n, n < k → ∃ t, step (play s script n) = .next t) :
    IsRun (play s script) ∧ WeaklyFair (play s script) ∧
      (¬(play s script k).InReady → SourceLive (play s script)) := by
  have off : ∀ n turn, k ≤ n → ¬(play s script n).Enabled turn := fun n turn le e => by
    obtain ⟨d, rfl⟩ := Nat.exists_eq_add_of_le le
    rw [play_rest h len] at e
    exact h.1 turn (by cases turn <;> exact e)
  refine ⟨fun n => ?_, fun turn n on => ?_, fun busy n on => ?_⟩
  · have ⟨t, e⟩ : ∃ t, step (play s script n) = .next t := by
      by_cases lt : n < k
      · exact goes n lt
      · obtain ⟨d, rfl⟩ := Nat.exists_eq_add_of_le (Nat.not_lt.mp lt)
        rw [play_rest h len]
        exact ⟨_, (h.later _).step⟩
    exact ⟨t, e, [], [], [], t.rst, [script.getD (n + 1) .src], by rw [play_succ e]; simp only [List.append_nil]⟩
  · exact absurd (on (max n k) (Nat.le_max_left ..)) (off _ _ (Nat.le_max_right ..))
  · refine absurd (on (k + n) (Nat.le_add_left ..)) ?_
    rw [play_rest h len]
    exact busy

/-- R226: a fair run in which STOP is in progress and never returns: the loop waits for a source that offers no event. -/
theorem stop_hangs_without_events : ∃ run, IsRun run ∧ WeaklyFair run ∧
    ∀ n, (run n).Inv ∧ (run n).life = .stopping ∧ ¬StopReturnsAt run n ∧ ¬ResetAt run n := by
  let s : State := { State.reset with loopAlive := true, armed := true, life := .stopping }
  have rest : (play s [] 0).AtRest := ⟨by intro turn; cases turn <;> simp [State.Enabled, play, s, State.reset], rfl, rfl⟩
  obtain ⟨r, f, -⟩ := play_isRun rest (Nat.le_refl 0) nofun
  refine ⟨play s [], r, f, fun n => ?_⟩
  have e := play_rest rest (Nat.le_refl 0) n
  rw [Nat.zero_add] at e
  refine ⟨?_, ?_, ?_, ?_⟩
  · rw [e]; constructor <;> simp [play, s, State.reset]
  · rw [e]; rfl
  · rintro ⟨-, -, a⟩; rw [e] at a; cases a
  · rintro ⟨-, a⟩; rw [e] at a; cases a

end Sys2Proof.Machine
end

