-- ==== Sys2Proof/Laws/PerInstr.lean ====
section
/-! SUPPORT. Laws/PerInstr.lean: for each operation, on which port its word stands: an operation that accepts a source event
has a source word, a host operation has a host word, and an operation without a word is neither (30_encoding R80). -/

/-- The operation's word, if it has one, stands on the port its agent reads. -/
def Sys2Proof.Laws.EncodesOnItsPort.Statement (i : Sys2Proof.Instr) : Prop :=
  (i.isAccept = true → ∃ w, Sys2Proof.encode i = some (.src w)) ∧
  (i.isHostOp = true → ∃ w, Sys2Proof.encode i = some (.host w)) ∧
  (Sys2Proof.encode i = none → i.isAccept = false ∧ i.isHostOp = false ∧ i.wellFormed = true)

namespace Sys2Proof.Laws.EncodesOnItsPort

/-- An operation that accepts a source event and has a source word. -/
theorem of_src {i : Sys2Proof.Instr} {w : BitVec 10} (e : Sys2Proof.encode i = some (.src w)) (h : i.isHostOp = false) :
    Statement i := by
  refine ⟨fun _ => ⟨w, e⟩, ?_, ?_⟩
  · rw [h]; nofun
  · rw [e]; nofun

/-- A host operation that has a host word. -/
theorem of_host {i : Sys2Proof.Instr} {w : BitVec 3} (e : Sys2Proof.encode i = some (.host w)) (h : i.isAccept = false) :
    Statement i := by
  refine ⟨?_, fun _ => ⟨w, e⟩, ?_⟩
  · rw [h]; nofun
  · rw [e]; nofun

/-- An operation that is neither. -/
theorem of_other {i : Sys2Proof.Instr} (a : i.isAccept = false) (b : i.isHostOp = false) (c : i.wellFormed = true) :
    Statement i := by
  refine ⟨?_, ?_, fun _ => ⟨a, b, c⟩⟩
  · rw [a]; nofun
  · rw [b]; nofun

end Sys2Proof.Laws.EncodesOnItsPort

theorem Sys2Proof.Laws.EncodesOnItsPort.sfMark0 :
    Sys2Proof.Laws.EncodesOnItsPort.Statement .sfMark0 := Sys2Proof.Laws.EncodesOnItsPort.of_src rfl rfl

theorem Sys2Proof.Laws.EncodesOnItsPort.sfSkip (data : Sys2Proof.Byte) :
    Sys2Proof.Laws.EncodesOnItsPort.Statement (.sfSkip data) := Sys2Proof.Laws.EncodesOnItsPort.of_src rfl rfl

theorem Sys2Proof.Laws.EncodesOnItsPort.sfIdle (ignored : Sys2Proof.Byte) :
    Sys2Proof.Laws.EncodesOnItsPort.Statement (.sfIdle ignored) := Sys2Proof.Laws.EncodesOnItsPort.of_src rfl rfl

theorem Sys2Proof.Laws.EncodesOnItsPort.ssMark1 :
    Sys2Proof.Laws.EncodesOnItsPort.Statement .ssMark1 := Sys2Proof.Laws.EncodesOnItsPort.of_src rfl rfl

theorem Sys2Proof.Laws.EncodesOnItsPort.ssDrop (data : Sys2Proof.Byte) :
    Sys2Proof.Laws.EncodesOnItsPort.Statement (.ssDrop data) := Sys2Proof.Laws.EncodesOnItsPort.of_src rfl rfl

theorem Sys2Proof.Laws.EncodesOnItsPort.ssTmo (ignored : Sys2Proof.Byte) :
    Sys2Proof.Laws.EncodesOnItsPort.Statement (.ssTmo ignored) := Sys2Proof.Laws.EncodesOnItsPort.of_src rfl rfl

theorem Sys2Proof.Laws.EncodesOnItsPort.rlLen :
    Sys2Proof.Laws.EncodesOnItsPort.Statement .rlLen := Sys2Proof.Laws.EncodesOnItsPort.of_src rfl rfl

theorem Sys2Proof.Laws.EncodesOnItsPort.rlBadlen (data : Sys2Proof.Byte) :
    Sys2Proof.Laws.EncodesOnItsPort.Statement (.rlBadlen data) := Sys2Proof.Laws.EncodesOnItsPort.of_src rfl rfl

theorem Sys2Proof.Laws.EncodesOnItsPort.rlTmo (ignored : Sys2Proof.Byte) :
    Sys2Proof.Laws.EncodesOnItsPort.Statement (.rlTmo ignored) := Sys2Proof.Laws.EncodesOnItsPort.of_src rfl rfl

theorem Sys2Proof.Laws.EncodesOnItsPort.rbStore (data : Sys2Proof.Byte) :
    Sys2Proof.Laws.EncodesOnItsPort.Statement (.rbStore data) := Sys2Proof.Laws.EncodesOnItsPort.of_src rfl rfl

theorem Sys2Proof.Laws.EncodesOnItsPort.rbLast (data : Sys2Proof.Byte) :
    Sys2Proof.Laws.EncodesOnItsPort.Statement (.rbLast data) := Sys2Proof.Laws.EncodesOnItsPort.of_src rfl rfl

theorem Sys2Proof.Laws.EncodesOnItsPort.rbTmo (ignored : Sys2Proof.Byte) :
    Sys2Proof.Laws.EncodesOnItsPort.Statement (.rbTmo ignored) := Sys2Proof.Laws.EncodesOnItsPort.of_src rfl rfl

theorem Sys2Proof.Laws.EncodesOnItsPort.xFatal (ignored : Sys2Proof.Byte) :
    Sys2Proof.Laws.EncodesOnItsPort.Statement (.xFatal ignored) := Sys2Proof.Laws.EncodesOnItsPort.of_src rfl rfl

theorem Sys2Proof.Laws.EncodesOnItsPort.srcRsvd (data : Sys2Proof.Byte) :
    Sys2Proof.Laws.EncodesOnItsPort.Statement (.srcRsvd data) := Sys2Proof.Laws.EncodesOnItsPort.of_src rfl rfl

theorem Sys2Proof.Laws.EncodesOnItsPort.startOk :
    Sys2Proof.Laws.EncodesOnItsPort.Statement .startOk := Sys2Proof.Laws.EncodesOnItsPort.of_host rfl rfl

theorem Sys2Proof.Laws.EncodesOnItsPort.startFail :
    Sys2Proof.Laws.EncodesOnItsPort.Statement .startFail := Sys2Proof.Laws.EncodesOnItsPort.of_host rfl rfl

theorem Sys2Proof.Laws.EncodesOnItsPort.startRej (openOk : BitVec 1) :
    Sys2Proof.Laws.EncodesOnItsPort.Statement (.startRej openOk) := Sys2Proof.Laws.EncodesOnItsPort.of_host rfl rfl

theorem Sys2Proof.Laws.EncodesOnItsPort.stop (arg : BitVec 1) :
    Sys2Proof.Laws.EncodesOnItsPort.Statement (.stop arg) := Sys2Proof.Laws.EncodesOnItsPort.of_host rfl rfl

theorem Sys2Proof.Laws.EncodesOnItsPort.stopIdle (arg : BitVec 1) :
    Sys2Proof.Laws.EncodesOnItsPort.Statement (.stopIdle arg) := Sys2Proof.Laws.EncodesOnItsPort.of_host rfl rfl

theorem Sys2Proof.Laws.EncodesOnItsPort.take (arg : BitVec 1) :
    Sys2Proof.Laws.EncodesOnItsPort.Statement (.take arg) := Sys2Proof.Laws.EncodesOnItsPort.of_host rfl rfl

theorem Sys2Proof.Laws.EncodesOnItsPort.stat (arg : BitVec 1) :
    Sys2Proof.Laws.EncodesOnItsPort.Statement (.stat arg) := Sys2Proof.Laws.EncodesOnItsPort.of_host rfl rfl

theorem Sys2Proof.Laws.EncodesOnItsPort.reset :
    Sys2Proof.Laws.EncodesOnItsPort.Statement .reset := Sys2Proof.Laws.EncodesOnItsPort.of_other rfl rfl rfl

theorem Sys2Proof.Laws.EncodesOnItsPort.frame (r : Sys2Proof.Record) (checksum : Sys2Proof.Byte) :
    Sys2Proof.Laws.EncodesOnItsPort.Statement (.frame r checksum) := Sys2Proof.Laws.EncodesOnItsPort.of_other rfl rfl rfl

theorem Sys2Proof.Laws.EncodesOnItsPort.check :
    Sys2Proof.Laws.EncodesOnItsPort.Statement .check := Sys2Proof.Laws.EncodesOnItsPort.of_other rfl rfl rfl

theorem Sys2Proof.Laws.EncodesOnItsPort.stopRet :
    Sys2Proof.Laws.EncodesOnItsPort.Statement .stopRet := Sys2Proof.Laws.EncodesOnItsPort.of_other rfl rfl rfl

theorem Sys2Proof.Laws.EncodesOnItsPort.pRaise (r : Sys2Proof.Record) :
    Sys2Proof.Laws.EncodesOnItsPort.Statement (.pRaise r) := Sys2Proof.Laws.EncodesOnItsPort.of_other rfl rfl rfl

theorem Sys2Proof.Laws.EncodesOnItsPort.sServeP :
    Sys2Proof.Laws.EncodesOnItsPort.Statement .sServeP := Sys2Proof.Laws.EncodesOnItsPort.of_other rfl rfl rfl

theorem Sys2Proof.Laws.EncodesOnItsPort.pLower :
    Sys2Proof.Laws.EncodesOnItsPort.Statement .pLower := Sys2Proof.Laws.EncodesOnItsPort.of_other rfl rfl rfl

theorem Sys2Proof.Laws.EncodesOnItsPort.sClearP :
    Sys2Proof.Laws.EncodesOnItsPort.Statement .sClearP := Sys2Proof.Laws.EncodesOnItsPort.of_other rfl rfl rfl

theorem Sys2Proof.Laws.EncodesOnItsPort.cRaise :
    Sys2Proof.Laws.EncodesOnItsPort.Statement .cRaise := Sys2Proof.Laws.EncodesOnItsPort.of_other rfl rfl rfl

theorem Sys2Proof.Laws.EncodesOnItsPort.sServeC :
    Sys2Proof.Laws.EncodesOnItsPort.Statement .sServeC := Sys2Proof.Laws.EncodesOnItsPort.of_other rfl rfl rfl

theorem Sys2Proof.Laws.EncodesOnItsPort.cLower :
    Sys2Proof.Laws.EncodesOnItsPort.Statement .cLower := Sys2Proof.Laws.EncodesOnItsPort.of_other rfl rfl rfl

theorem Sys2Proof.Laws.EncodesOnItsPort.sClearC :
    Sys2Proof.Laws.EncodesOnItsPort.Statement .sClearC := Sys2Proof.Laws.EncodesOnItsPort.of_other rfl rfl rfl

theorem Sys2Proof.Laws.EncodesOnItsPort.crcInit :
    Sys2Proof.Laws.EncodesOnItsPort.Statement .crcInit := Sys2Proof.Laws.EncodesOnItsPort.of_other rfl rfl rfl

theorem Sys2Proof.Laws.EncodesOnItsPort.crcStep (data : Sys2Proof.Byte) :
    Sys2Proof.Laws.EncodesOnItsPort.Statement (.crcStep data) := Sys2Proof.Laws.EncodesOnItsPort.of_other rfl rfl rfl

theorem Sys2Proof.Laws.EncodesOnItsPort.decode :
    Sys2Proof.Laws.EncodesOnItsPort.Statement .decode := Sys2Proof.Laws.EncodesOnItsPort.of_other rfl rfl rfl

theorem Sys2Proof.Laws.EncodesOnItsPort.publish (r : Sys2Proof.Record) :
    Sys2Proof.Laws.EncodesOnItsPort.Statement (.publish r) := Sys2Proof.Laws.EncodesOnItsPort.of_other rfl rfl rfl

theorem Sys2Proof.Laws.EncodesOnItsPort.takeAbs :
    Sys2Proof.Laws.EncodesOnItsPort.Statement .takeAbs := Sys2Proof.Laws.EncodesOnItsPort.of_other rfl rfl rfl
end

