-- ==== Sys2Proof/Tests/Slice0.lean ====
section
/-! SUPPORT. Tests/Slice0.lean: small tests. Expected results come from the spec's vectors (95_test_vectors: O, K, P, V, L) and
from words written out by the encoding tables (30_encoding R70, R74, R75, R79). Then one witness for each obligation that has
hypotheses: a concrete state and operands that meet them. -/

namespace Sys2Proof.Tests

open Sys2Proof Sys2Proof.Machine

/-! ## Helpers -/

/-- The outcome is a next state with this property. -/
def nextOf (o : StepOutcome) (p : State → Bool) : Bool :=
  match o with
  | .next t => p t
  | .fault _ => false
  | .refused _ => false

theorem nextOf_exists {o : StepOutcome} {p : State → Bool} (h : nextOf o p = true) : ∃ t, o = .next t ∧ p t = true := by
  cases o with
  | next t => exact ⟨t, rfl, h⟩
  | fault r => cases h
  | refused r => cases h

/-- The outcome is this refusal. -/
def refusedBy (o : StepOutcome) (r : Refusal) : Bool :=
  match o with
  | .next _ => false
  | .fault _ => false
  | .refused q => q == r

/-- The outcome is this fault. -/
def faultedBy (o : StepOutcome) (r : Fault) : Bool :=
  match o with
  | .next _ => false
  | .fault q => q == r
  | .refused _ => false

/-- Running, the loop alive, in this phase with this count; a read is outstanding in SeekFirst. -/
def at' (phase : SyncState) (n : BitVec 5) : State :=
  { State.reset with
    life := .running, runFlag := true, loopAlive := true, syncState := phase, cnt := n, armed := phase == .seekFirst }

/-- The Record of frame F1 of the vectors. -/
def r1 : Record := { x := 100, y := 200, w := 50, h := 60, timestamp := 1700000000000 }

/-- The Record of frame F2 of the vectors. -/
def r2 : Record := { x := 1, y := 2, w := 3, h := 4, timestamp := 5 }

/-- `F1[3:21]` and the last trailer byte: the buffer of vectors O15 to O17. -/
def body1 : Vector Byte 19 :=
  #v[0x64, 0x00, 0xC8, 0x00, 0x32, 0x00, 0x3C, 0x00, 0x00, 0x68, 0xE5, 0xCF, 0x8B, 0x01, 0x00, 0x00, 0xE1, 0x55, 0xAA]

/-- The life mode with nothing else set. -/
def inLife (l : Life) : State := { State.reset with life := l }

/-! ## Well-formedness: an ill-formed term is refused -/

theorem test_wf_sfSkip_mark_refused : (Instr.sfSkip 0xAA).wellFormed = false := by decide

theorem test_wf_ssDrop_mark_refused : (Instr.ssDrop 0x55).wellFormed = false := by decide

theorem test_wf_rlBadlen_length_refused : (Instr.rlBadlen 0x11).wellFormed = false := by decide

theorem test_wf_neighbours_accepted :
    ((Instr.sfSkip 0x55).wellFormed && (Instr.ssDrop 0xAA).wellFormed && (Instr.rlBadlen 0x10).wellFormed) = true := by decide

/-! ## Decoding: words written bit by bit from 30_encoding R74, R75, R79 -/

/-- A mode in this phase. -/
def inPhase (p : SyncState) (n : BitVec 5) : Mode := { sync := p, cnt := n, life := .running }

theorem test_decode_seekFirst :
    decode (inPhase .seekFirst 0) (.src 0b0010101010) = .ok .sfMark0 ∧
    decode (inPhase .seekFirst 0) (.src 0b0001010101) = .ok (.sfSkip 0x55) ∧
    decode (inPhase .seekFirst 0) (.src 0b0100000000) = .ok (.sfIdle 0) := by decide

theorem test_decode_seekSecond :
    decode (inPhase .seekSecond 0) (.src 0b0001010101) = .ok .ssMark1 ∧
    decode (inPhase .seekSecond 0) (.src 0b0010101010) = .ok (.ssDrop 0xAA) ∧
    decode (inPhase .seekSecond 0) (.src 0b0111111111) = .ok (.ssTmo 0xFF) := by decide

theorem test_decode_readLength :
    decode (inPhase .readLength 0) (.src 0b0000010001) = .ok .rlLen ∧
    decode (inPhase .readLength 0) (.src 0b0000010000) = .ok (.rlBadlen 0x10) ∧
    decode (inPhase .readLength 0) (.src 0b0100000000) = .ok (.rlTmo 0) := by decide

theorem test_decode_readBody :
    decode (inPhase .readBody 17) (.src 0b0010101010) = .ok (.rbStore 0xAA) ∧
    decode (inPhase .readBody 18) (.src 0b0010101010) = .ok (.rbLast 0xAA) ∧
    decode (inPhase .readBody 18) (.src 0b0100000000) = .ok (.rbTmo 0) := by decide

theorem test_decode_any_phase :
    decode (inPhase .readBody 5) (.src 0b1000000000) = .ok (.xFatal 0) ∧
    decode (inPhase .seekSecond 0) (.src 0b1110100101) = .ok (.srcRsvd 0xA5) := by decide

/-- A mode in this life. -/
def inMode (l : Life) : Mode := { sync := .seekFirst, cnt := 0, life := l }

theorem test_decode_start :
    decode (inMode .idle) (.host 0b001) = .ok .startOk ∧ decode (inMode .idle) (.host 0b000) = .ok .startFail ∧
    decode (inMode .stopped) (.host 0b001) = .ok (.startRej 1) := by decide

theorem test_decode_stop_take_stat :
    decode (inMode .running) (.host 0b011) = .ok (.stop 1) ∧ decode (inMode .idle) (.host 0b010) = .ok (.stopIdle 0) ∧
    decode (inMode .stopped) (.host 0b101) = .ok (.take 1) ∧ decode (inMode .running) (.host 0b110) = .ok (.stat 0) := by
  decide

theorem test_decode_reset : decode (inMode .running) (.rst 0b1) = .ok .reset := by decide

/-- F2 of the vectors, offset 0 in the lowest byte. -/
theorem test_decode_frame :
    decode (inMode .idle) (.wire 0xAA55D00000000000000005000400030002000111_55AA) = .ok (.frame r2 0xD0) := by
  decide +kernel

/-- The rejections, each by name. -/
theorem test_decode_rejects :
    decode (inMode .stopping) (.host 0b110) = .error .hostOperationInProgress ∧
    decode (inPhase .readBody 19) (.src 0x055) = .error .countOutOfRange ∧
    decode (inMode .idle) (.rst 0) = .error .noReset ∧ decode (inMode .idle) (.wire 0) = .error .notAFrame := by
  decide +kernel

/-- The INT and ABS rows have no word (30_encoding R80). -/
theorem test_encode_internal_rows :
    [Instr.check, .stopRet, .pRaise r1, .sServeP, .pLower, .sClearP, .cRaise, .sServeC, .cLower, .sClearC, .crcInit,
      .crcStep 0, .decode, .publish r1, .takeAbs].map encode = List.replicate 15 none := by decide

/-- The words of 30_encoding R84, R85: F2 encodes to its 22 bytes in wire order. -/
theorem test_encode_frame :
    wireBytes (frameUnit r2 0xD0) =
      [0xAA, 0x55, 0x11, 0x01, 0x00, 0x02, 0x00, 0x03, 0x00, 0x04, 0x00, 0x05, 0x00, 0x00, 0x00, 0x00, 0x00, 0x00, 0x00, 0xD0,
        0x55, 0xAA] := by decide +kernel

theorem test_decodeTableWord :
    decodeTableWord 16 0x0AA = some .sfMark0 ∧ decodeTableWord 16 0x055 = some .ssMark1 ∧
    decodeTableWord 16 0x011 = some .rlLen ∧ decodeTableWord 16 0x200 = some (.xFatal 0) ∧
    decodeTableWord 8 0b001 = some .startOk ∧ decodeTableWord 8 0b100 = some (.take 0) ∧
    decodeTableWord 16 0x400 = none := by decide

/-! ## The Frame Synchronizer: vectors O1 to O22 of 95_test_vectors section 2.2 -/

theorem test_O1_sfMark0 :
    nextOf (exec .sfMark0 (at' .seekFirst 0)) (fun t =>
      t.syncState == .seekSecond && t.cnt == 0 && !t.armed && t.out == { evt := some .okQuiet }) = true := by decide

theorem test_O2_sfSkip :
    nextOf (exec (.sfSkip 0x55) (at' .seekFirst 0)) (fun t =>
      t.syncState == .seekFirst && !t.armed && t.out == { evt := some (.skip 0x55) }) = true := by decide

theorem test_O4_sfIdle :
    nextOf (exec (.sfIdle 0) (at' .seekFirst 0)) (fun t =>
      t.syncState == .seekFirst && !t.armed && t.out == { evt := some .okQuiet }) = true := by decide

theorem test_O5_ssMark1 :
    nextOf (exec .ssMark1 (at' .seekSecond 0)) (fun t =>
      t.syncState == .readLength && t.out == { evt := some .okQuiet }) = true := by decide

theorem test_O6_ssDrop :
    nextOf (exec (.ssDrop 0xAA) (at' .seekSecond 0)) (fun t =>
      t.syncState == .seekFirst && t.cnt == 0 && t.out == { evt := some (.eSecond 0xAA) }) = true := by decide

theorem test_O8_ssTmo :
    nextOf (exec (.ssTmo 0) (at' .seekSecond 0)) (fun t =>
      t.syncState == .seekFirst && t.out == { evt := some (.eShort .seekSecond 0) }) = true := by decide

theorem test_O9_rlLen :
    nextOf (exec .rlLen (at' .readLength 0)) (fun t =>
      t.syncState == .readBody && t.cnt == 0 && t.out == { evt := some .okQuiet }) = true := by decide

theorem test_O11_rlBadlen :
    nextOf (exec (.rlBadlen 0xAA) (at' .readLength 0)) (fun t =>
      t.syncState == .seekFirst && t.out == { evt := some (.eLength 0xAA) }) = true := by decide

theorem test_O12_rlTmo :
    nextOf (exec (.rlTmo 0) (at' .readLength 0)) (fun t =>
      t.syncState == .seekFirst && t.out == { evt := some (.eShort .readLength 0) }) = true := by decide

theorem test_O13_rbStore_first :
    nextOf (exec (.rbStore 0xAA) (at' .readBody 0)) (fun t =>
      t.syncState == .readBody && t.cnt == 1 && t.buf == (State.reset.buf.set 0 0xAA) &&
        t.out == { evt := some .okQuiet }) = true := by decide

theorem test_O14_rbStore_last :
    nextOf (exec (.rbStore 0x55) (at' .readBody 17)) (fun t =>
      t.cnt == 18 && t.buf == (State.reset.buf.set 17 0x55)) = true := by decide

theorem test_O16_rbLast_trailer :
    nextOf (exec (.rbLast 0xAB) { at' .readBody 18 with buf := body1 }) (fun t =>
      t.syncState == .seekFirst && t.cnt == 0 && !t.pReq && t.out == { evt := some (.eTrailer 0x55 0xAB) }) = true := by
  decide

/-- O15, O16, O17 with the default table: good, the trailer, the checksum. -/
theorem test_O15_O17_validate :
    validateWith defaultTable body1 = .good ∧ validateWith defaultTable (body1.set 18 0xAB) = .badTrailer ∧
    validateWith defaultTable (body1.set 16 0x61) = .badChecksum 0xE1 := by decide +kernel

/-- S7: trailer and checksum both wrong, the trailer is judged first. -/
theorem test_S7_trailer_first :
    validateWith defaultTable ((body1.set 0 0x65).set 17 0x54) = .badTrailer := by decide +kernel

theorem test_O18_rbTmo :
    nextOf (exec (.rbTmo 0) (at' .readBody 7)) (fun t =>
      t.syncState == .seekFirst && t.cnt == 0 && t.out == { evt := some (.eShort .readBody 7) }) = true := by decide

theorem test_O19_xFatal :
    nextOf (exec (.xFatal 0) (at' .readBody 5)) (fun t =>
      t.fatal && !t.loopAlive && !t.armed && t.syncState == .seekFirst && t.life == .running &&
        t.out == { evt := some (.eFatal .readBody 5) }) = true := by decide

theorem test_O21_srcRsvd : refusedBy (exec (.srcRsvd 0xA5) (at' .readBody 5)) .reservedSourceWord = true := by decide

theorem test_O22_not_ready :
    nextOf (step { State.reset with source := [0x0AA], turns := [.sync] }) (fun t =>
      t.source == [0x0AA] && t.syncState == .seekFirst && t.out == {}) = true := by decide

theorem test_byte_with_count_19_faults :
    faultedBy (step { at' .readBody 19 with source := [0x055], turns := [.sync] }) .countOutOfRange = true := by decide

/-! ## The Checksum Engine and the Payload Codec: vectors K and P -/

theorem test_K_default_table :
    crc8With defaultTable [] = 0x00 ∧ crc8With defaultTable [0x80] = 0x89 ∧ crc8With defaultTable [0x01, 0x02] = 0x1B ∧
    crc8With defaultTable [0x31, 0x32, 0x33, 0x34, 0x35, 0x36, 0x37, 0x38, 0x39] = 0xF4 := by decide +kernel

theorem test_crcInit : nextOf (exec .crcInit { State.reset with crcAcc := 0x3B }) (fun t => t.crcAcc == 0x00) = true := by
  decide

theorem test_crcStep : exec (.crcStep 0x64) { State.reset with crcAcc := 0x3B } =
    .next { State.reset with crcAcc := Config.crcTable 0x5F } := by rfl

theorem test_P8_decode :
    decodePayload #v[0xFF, 0x00, 0x00, 0xFF, 0x34, 0x12, 0x12, 0x34, 0x01, 0x02, 0x03, 0x04, 0x05, 0x06, 0x07, 0x08] =
      { x := 255, y := 65280, w := 4660, h := 13330, timestamp := 578437695752307201 } := by decide +kernel

theorem test_P1_decode :
    nextOf (exec .decode { State.reset with buf := body1 }) (fun t => t.out == { codec := some r1 } && t.buf == body1) =
      true := by decide +kernel

theorem test_frame_arrives :
    nextOf (exec (.frame r2 0xD0) { State.reset with source := [0x100] }) (fun t =>
      t.source == [0x100, 0x0AA, 0x055, 0x011, 0x001, 0x000, 0x002, 0x000, 0x003, 0x000, 0x004, 0x000, 0x005, 0x000, 0x000,
        0x000, 0x000, 0x000, 0x000, 0x000, 0x0D0, 0x055, 0x0AA]) = true := by decide +kernel

/-! ## The Latest-Value Store: vectors V1 to V10 -/

theorem test_V4_publish_overwrites :
    nextOf (exec (.publish r2) { State.reset with slotValid := true, slotRec := r1 }) (fun t => t.slot == some r2) = true := by
  decide

theorem test_V2_takeAbs :
    nextOf (exec .takeAbs { State.reset with slotValid := true, slotRec := r1 }) (fun t =>
      t.slot == none && t.out.hostRet == some (.taken (some r1))) = true := by decide

theorem test_V3_takeAbs_empty :
    nextOf (exec .takeAbs State.reset) (fun t => t.slot == none && t.out.hostRet == some (.taken none)) = true := by decide

theorem test_V8_pRaise :
    nextOf (exec (.pRaise r1) (at' .readBody 18)) (fun t => t.pReq && !t.pAck && t.pData == r1 && t.slot == none) = true := by
  decide

theorem test_V8_sServeP :
    nextOf (exec .sServeP { at' .seekFirst 0 with armed := false, pReq := true, pData := r1 }) (fun t =>
      t.pReq && t.pAck && t.slot == some r1) = true := by decide

theorem test_V8_pLower :
    nextOf (exec .pLower { at' .seekFirst 0 with armed := false, pReq := true, pAck := true }) (fun t => !t.pReq && t.pAck) =
      true := by decide

theorem test_V8_sClearP :
    nextOf (exec .sClearP { at' .seekFirst 0 with armed := false, pAck := true }) (fun t => !t.pReq && !t.pAck) = true := by
  decide

theorem test_V9_cRaise : nextOf (exec .cRaise State.reset) (fun t => t.cReq && !t.cAck) = true := by decide

theorem test_V9_sServeC :
    nextOf (exec .sServeC { State.reset with cReq := true, slotValid := true, slotRec := r1 }) (fun t =>
      t.cAck && t.cValid && t.cData == r1 && t.slot == none) = true := by decide

theorem test_V9_cLower :
    nextOf (exec .cLower { State.reset with cReq := true, cAck := true, cValid := true, cData := r1 }) (fun t =>
      !t.cReq && t.cAck && t.out.hostRet == some (.taken (some r1))) = true := by decide

theorem test_V9_sClearC : nextOf (exec .sClearC { State.reset with cAck := true }) (fun t => !t.cAck) = true := by decide

theorem test_V9_second_take :
    nextOf (exec .sServeC { State.reset with cReq := true, cValid := true, cData := r1 }) (fun t => t.cAck && !t.cValid) =
      true := by decide

/-! ## Lifecycle control: vectors L1 to L18 -/

theorem test_L1_reset :
    nextOf (exec .reset { at' .readBody 5 with fatal := true, slotValid := true, cReq := true, source := [0x055], rst := 1 })
      (fun t => t.life == .idle && !t.fatal && !t.loopAlive && t.slot == none && !t.cReq && t.syncState == .seekFirst &&
        t.cnt == 0 && t.source == [0x055] && t.rst == 0) = true := by decide

theorem test_L2_startOk :
    nextOf (exec .startOk (inLife .idle)) (fun t =>
      t.life == .running && t.runFlag && t.loopAlive && !t.armed && t.out == { hostRet := some (.started true) }) = true := by
  decide

theorem test_L3_startFail :
    nextOf (exec .startFail (inLife .idle)) (fun t =>
      t.life == .idle && !t.loopAlive && t.out == { evt := some .eOpen, hostRet := some (.started false) }) = true := by decide

theorem test_L5_startRej_running :
    nextOf (exec (.startRej 0) (at' .seekFirst 0)) (fun t =>
      t.life == .running && t.out == { evt := some (.eStart .running), hostRet := some (.started false) }) = true := by decide

theorem test_L6_startRej_stopped :
    nextOf (exec (.startRej 1) (inLife .stopped)) (fun t =>
      t.life == .stopped && !t.loopAlive && t.out == { evt := some (.eStart .stopped), hostRet := some (.started false) }) =
        true := by decide

theorem test_L7_stop :
    nextOf (exec (.stop 0) (at' .seekFirst 0)) (fun t =>
      t.life == .stopping && !t.runFlag && t.loopAlive && t.armed && t.out == {}) = true := by decide

theorem test_L8_check_ends :
    nextOf (exec .check { at' .seekFirst 0 with life := .stopping, runFlag := false, armed := false }) (fun t =>
      !t.loopAlive && t.life == .stopping && t.out == { evt := some .loopExit }) = true := by decide

theorem test_L9_stopRet :
    nextOf (exec .stopRet (inLife .stopping)) (fun t =>
      t.life == .stopped && t.out == { hostRet := some .stopped, close := true }) = true := by decide

theorem test_L11_stopIdle :
    nextOf (exec (.stopIdle 0) (inLife .idle)) (fun t => t.life == .stopped && t.out == { hostRet := some .stopped }) =
      true := by decide

theorem test_L12_stopIdle_stopped :
    nextOf (exec (.stopIdle 1) (inLife .stopped)) (fun t => t.life == .stopped && !t.out.close) = true := by decide

theorem test_L13_stat :
    nextOf (exec (.stat 0) { at' .seekFirst 0 with loopAlive := false, armed := false, fatal := true }) (fun t =>
      t.out == { hostRet := some (.status .running false true) }) = true := by decide

theorem test_L15_take : nextOf (exec (.take 0) (inLife .idle)) (fun t => t.cReq && t.out == {}) = true := by decide

theorem test_L17_overlap :
    refusedBy (exec (.take 0) (inLife .stopping)) .hostOverlap = true ∧
    refusedBy (step { inLife .stopping with hostOps := [0b110], turns := [.hostIssue] }) .hostOverlap = true := by decide

theorem test_L18_check_arms :
    nextOf (exec .check { at' .seekFirst 0 with armed := false }) (fun t => t.armed && t.out == {}) = true := by decide

/-! ## The step takes the word that withFetchWord stores -/

theorem test_step_source_word :
    nextOf (step (State.reset.withFetchWord 16 0x0AA)) (fun t => t.syncState == .seekSecond && t.source == []) = true := by
  decide

theorem test_step_host_word :
    nextOf (step (State.reset.withFetchWord 8 0b001)) (fun t => t.life == .running && t.hostOps == []) = true := by decide

theorem test_step_reset_word :
    nextOf (step (State.reset.withFetchWord 1 1)) (fun t => t.rst == 0 && t.life == .idle) = true := by decide

theorem test_step_wire_word :
    nextOf (step (State.reset.withFetchWord 176 0xAA55D00000000000000005000400030002000111_55AA)) (fun t =>
      t.wire == [] && t.source.length == 22 && t.source.head? == some 0x0AA) = true := by decide +kernel

/-! ## Witnesses: for each obligation with hypotheses, a state and operands that meet them -/

/-- An event at the source and SYNC's turn next. -/
def offered (s : State) (w : BitVec 10) : State := { s with source := [w], turns := [.sync] }

/-- A host word at the port and HOST's turn next. -/
def issued (s : State) (w : BitVec 3) : State := { s with hostOps := [w], turns := [.hostIssue] }

theorem witness_SeekFirstEventsRun :
    (at' .seekFirst 0).InReady ∧ (at' .seekFirst 0).syncState = .seekFirst ∧ (0xAB : Byte) ≠ 0xAA ∧ (0x00 : Byte) ≠ 0xAA := by
  decide

theorem witness_SeekSecondEventsRun :
    (at' .seekSecond 0).InReady ∧ (at' .seekSecond 0).syncState = .seekSecond ∧ (0xAA : Byte) ≠ 0x55 ∧ (0x54 : Byte) ≠ 0x55 :=
  by decide

theorem witness_ReadLengthEventsRun :
    (at' .readLength 0).InReady ∧ (at' .readLength 0).syncState = .readLength ∧ (0x10 : Byte) ≠ 0x11 ∧ (0x12 : Byte) ≠ 0x11 :=
  by decide

theorem witness_BodyByteIsStored :
    ((at' .readBody 0).InReady ∧ (at' .readBody 0).syncState = .readBody ∧ (at' .readBody 0).cnt < 18) ∧
    (at' .readBody 17).InReady ∧ (at' .readBody 17).syncState = .readBody ∧ (at' .readBody 17).cnt < 18 := by decide

/-- The checksum of F1's payload, whatever the table. -/
def sum1 : Byte := crc8 (payload body1).toList

/-- In ReadBody with 18 bytes stored, the checksum byte being `c`. -/
def full (c : Byte) : State := { at' .readBody 18 with buf := body1.set 16 c }

theorem payload_full (c : Byte) : payload ((body1.set 16 c).set 18 0xAA) = payload body1 := by
  apply Vector.ext
  intro k h
  simp only [payload, Vector.getElem_ofFn]
  rw [Vector.getElem_set_ne (by omega) (by omega) (by omega), Vector.getElem_set_ne (by omega) (by omega) (by omega)]

theorem validate_full (c : Byte) :
    validate ((body1.set 16 c).set 18 0xAA) = if sum1 ≠ c then .badChecksum sum1 else .good := by
  have trailer : ((body1.set 16 c).set 18 0xAA)[17] = 0x55 ∧ ((body1.set 16 c).set 18 0xAA)[18] = 0xAA := by
    constructor
    · rw [Vector.getElem_set_ne (by omega) (by omega) (by omega), Vector.getElem_set_ne (by omega) (by omega) (by omega)]; rfl
    · exact Vector.getElem_set_self _
  have sum : ((body1.set 16 c).set 18 0xAA)[16] = c := by
    rw [Vector.getElem_set_ne (by omega) (by omega) (by omega)]; exact Vector.getElem_set_self _
  unfold validate validateWith
  rw [if_neg (by rw [trailer.1, trailer.2]; decide), payload_full, sum]
  rfl

theorem succ_ne (c : Byte) : c ≠ c + 1 := by bv_omega

/-- The three verdicts: each is met by a state that meets the hypotheses. -/
theorem witness_LastByteIsJudged :
    (∀ c, (full c).InReady ∧ (full c).syncState = .readBody ∧ (full c).cnt = 18) ∧
    validate ((full sum1).buf.set 18 0xAA) = .good ∧
    validate ((full (sum1 + 1)).buf.set 18 0xAA) = .badChecksum sum1 ∧
    validate ((full 0xE1).buf.set 18 0xAB) = .badTrailer :=
  ⟨fun _ => ⟨⟨rfl, ⟨rfl, rfl⟩, .inl nofun⟩, rfl, rfl⟩,
    (validate_full sum1).trans (if_neg (fun h => h rfl)), (validate_full (sum1 + 1)).trans (if_pos (succ_ne sum1)), rfl⟩

/-- Each clause is met: O15, O16, O17 and the first trailer byte. -/
theorem witness_TrailerIsJudgedBeforeChecksum :
    0xE1 = crc8With defaultTable [body1[0], body1[1], body1[2], body1[3], body1[4], body1[5], body1[6], body1[7], body1[8],
      body1[9], body1[10], body1[11], body1[12], body1[13], body1[14], body1[15]] ∧
    validateWith defaultTable (body1.set 17 0x54) = .badTrailer ∧
    validateWith defaultTable (body1.set 16 0x61) = .badChecksum 0xE1 ∧ validateWith defaultTable body1 = .good := by
  decide +kernel

theorem witness_BodyTimeoutAborts :
    ((at' .readBody 0).InReady ∧ (at' .readBody 0).syncState = .readBody ∧ (at' .readBody 0).cnt ≤ 18) ∧
    (at' .readBody 18).InReady ∧ (at' .readBody 18).syncState = .readBody ∧ (at' .readBody 18).cnt ≤ 18 := by decide

theorem witness_FatalEventEndsTheLoop :
    (at' .seekFirst 0).InReady ∧ (at' .seekSecond 0).InReady ∧ (at' .readLength 0).InReady ∧ (at' .readBody 18).InReady := by
  decide

theorem witness_ReservedKindIsRefused :
    (offered (at' .readBody 5) (srcWord 3 0xA5)).source = srcWord 3 0xA5 :: [] ∧
    (offered (at' .readBody 5) (srcWord 3 0xA5)).nextTurn = .sync ∧
    ¬(offered (at' .readBody 5) (srcWord 3 0xA5)).LowerPReady ∧ ¬(offered (at' .readBody 5) (srcWord 3 0xA5)).CheckReady := by
  decide

/-- Both clauses are met: ready, and not ready because the loop is dead or the handshake is busy. -/
theorem witness_EventIsAcceptedExactlyWhenReady :
    (Instr.sfMark0.isAccept = true ∧ Instr.sfMark0.selectedIn (at' .seekFirst 0).mode = true) ∧
    (at' .seekFirst 0).InReady ∧ ¬State.reset.InReady ∧ Instr.sfMark0.selectedIn State.reset.mode = true ∧
    ¬State.InReady { at' .readBody 0 with pAck := true } := by decide

theorem at_inv_body : (at' .readBody 18).Inv where
  count_le := by decide
  count_in_body := by decide
  armed_seeking := by decide
  dead_clean := by decide
  alive_life := by decide
  fatal_dead := by decide
  run_running := by decide
  idle_clean := by decide
  publish_holds := by decide
  take_not_stopping := by decide

theorem witness_PhaseMovesByTheTransitionTable :
    (at' .readBody 18).InReady ∧ (at' .readBody 18).Inv ∧ srcKind (srcWord 0 0xAA) ≠ 3 ∧
    decode (at' .readBody 18).mode (.src (srcWord 0 0xAA)) = .ok (.rbLast 0xAA) :=
  ⟨by decide, at_inv_body, by decide, by decide⟩

theorem witness_CheckSamplesTheRunFlag :
    (State.CheckReady { at' .seekFirst 0 with armed := false } ∧ (at' .seekFirst 0).runFlag = true) ∧
    State.CheckReady { at' .seekFirst 0 with armed := false, runFlag := false, life := .stopping } := by decide

theorem witness_StartReturnsByMode :
    (¬(inLife .idle).HostBusy ∧ (inLife .idle).life = .idle) ∧
    (¬(at' .seekFirst 0).HostBusy ∧ (at' .seekFirst 0).life = .running) ∧
    (¬(inLife .stopped).HostBusy ∧ (inLife .stopped).life = .stopped) := by decide

theorem witness_StopReturnsByMode :
    (¬(at' .seekFirst 0).HostBusy ∧ (at' .seekFirst 0).life = .running) ∧
    (¬(inLife .idle).HostBusy ∧ (inLife .idle).life = .idle) ∧ (¬(inLife .stopped).HostBusy ∧ (inLife .stopped).life = .stopped) ∧
    ((inLife .stopping).life = .stopping ∧ (inLife .stopping).loopAlive = false) ∧
    (at' .seekFirst 0).loopAlive = true := by decide

theorem witness_StatReturnsTheStatus : ¬State.reset.HostBusy ∧ ¬(at' .readBody 3).HostBusy := by decide

theorem witness_HostOperationsDoNotOverlap :
    ((inLife .stopping).HostBusy ∧ State.HostBusy { State.reset with cReq := true }) ∧ (Instr.stat 0).isHostOp = true ∧
    (issued (inLife .stopping) 0b110).HostBusy ∧ (issued (inLife .stopping) 0b110).hostOps = 0b110 :: [] ∧
    (issued (inLife .stopping) 0b110).nextTurn = .hostIssue := by decide

theorem witness_TakeIsIssuedByRaisingTheRequest : ¬State.reset.HostBusy ∧ State.reset.TakeIdle := by decide

/-- The take handshake pending, the slot full. -/
def asked : State := { State.reset with cReq := true, slotValid := true, slotRec := r2 }

/-- The publish handshake pending, with F1's Record. -/
def pending : State := { at' .seekFirst 0 with armed := false, pReq := true, pData := r1 }

theorem witness_AbstractStoreOperationsRun : asked.slotValid = true ∧ State.reset.slotValid = false := by decide

theorem witness_PublishHandshakeStepsRun :
    (State.reset.pReq = false ∧ State.reset.pAck = false) ∧ (pending.pReq = true ∧ pending.pAck = false) ∧
    (State.pReq { pending with pAck := true } = true ∧ State.pAck { pending with pAck := true } = true) ∧
    (State.pReq { State.reset with pAck := true } = false ∧ State.pAck { State.reset with pAck := true } = true) := by decide

theorem witness_TakeHandshakeStepsRun :
    (asked.cReq = true ∧ asked.cAck = false ∧ asked.slotValid = true) ∧
    (State.cReq { asked with cAck := true } = true ∧ State.cAck { asked with cAck := true } = true) ∧
    (State.cReq { State.reset with cAck := true } = false ∧ State.cAck { State.reset with cAck := true } = true) := by decide

/-- A TAKE waits at the port, with the turns that run it. -/
def willTake : State :=
  { State.reset with hostOps := [hostWord 2 0], turns := [.hostIssue, .storeC, .hostReturn], slotValid := true, slotRec := r1 }

theorem witness_TakeReturnsTheSlotAndEmptiesIt :
    ¬willTake.HostBusy ∧ willTake.TakeIdle ∧ willTake.hostOps = hostWord 2 0 :: [] ∧
    willTake.turns = [.hostIssue, .storeC, .hostReturn] ++ [] := by decide

/-- Two TAKEs wait at the port, with the turns that run them. -/
def willTakeTwice : State :=
  { willTake with
    hostOps := [hostWord 2 0, hostWord 2 1]
    turns := [.hostIssue, .storeC, .hostReturn, .storeC, .hostIssue, .storeC, .hostReturn] }

theorem witness_SecondTakeReturnsNothing :
    ¬willTakeTwice.HostBusy ∧ willTakeTwice.TakeIdle ∧ willTakeTwice.slot = some r1 ∧
    willTakeTwice.hostOps = hostWord 2 0 :: hostWord 2 1 :: [] ∧
    willTakeTwice.turns = [.hostIssue, .storeC, .hostReturn, .storeC, .hostIssue, .storeC, .hostReturn] ++ [] := by decide

/-- V10: both requests pending, in this order of turns. -/
def bothPending (ts : List Turn) : State := { pending with cReq := true, slotValid := true, slotRec := r2, turns := ts }

theorem witness_EitherSideMayBeServedFirst :
    (bothPending [.storeC, .storeP]).ServePReady ∧ (bothPending [.storeC, .storeP]).ServeCReady ∧
    (bothPending [.storeC, .storeP]).turns = [.storeC, .storeP] ++ [] ∧
    (bothPending [.storeP, .storeC]).turns = [.storeP, .storeC] ++ [] := by decide

/-- A publish, a take, a reset and a silent step. -/
theorem witness_EveryStepIsAPublishATakeOrSilent :
    (∃ t, step (bothPending [.storeP]) = .next t ∧ (t.slot == some r1) = true) ∧
    (∃ t, step (bothPending [.storeC]) = .next t ∧ (t.slot == none) = true) ∧
    (∃ t, step { bothPending [.rst] with rst := 1 } = .next t ∧ (t.slot == none) = true) ∧
    (∃ t, step (bothPending [.src]) = .next t ∧ (t.slot == some r2) = true) :=
  ⟨nextOf_exists (p := fun t => t.slot == some r1) (by decide), nextOf_exists (p := fun t => t.slot == none) (by decide),
    nextOf_exists (p := fun t => t.slot == none) (by decide), nextOf_exists (p := fun t => t.slot == some r2) (by decide)⟩

theorem witness_PublishDataIsStableWhileRequested :
    pending.pReq = true ∧ ∃ t, step { pending with turns := [.storeP] } = .next t ∧ t.pReq = true :=
  ⟨rfl, nextOf_exists (p := fun t => t.pReq) (by decide)⟩

/-- A step of SYNC while a captured result waits, and the publish serve. -/
theorem witness_TakeDataIsStableBetweenServes :
    (∃ t, step { offered (at' .seekFirst 0) 0x0AA with cReq := true, cAck := true, cValid := true, cData := r2 } = .next t ∧
      (t.cValid && t.cData == r2) = true) ∧
    (offered (at' .seekFirst 0) 0x0AA).nextTurn ≠ .rst ∧ (offered (at' .seekFirst 0) 0x0AA).nextTurn ≠ .storeC :=
  ⟨nextOf_exists (p := fun t => t.cValid && t.cData == r2) (by decide), by decide, by decide⟩

/-- Both branches: SYNC lowers the request, and SYNC waits. -/
theorem witness_PublishInFlightHoldsSyncStill :
    (State.nextTurn { pending with turns := [.sync] } = .sync ∧ pending.pReq = true) ∧
    (∃ t, step { pending with pAck := true, turns := [.sync] } = .next t ∧ (!t.pReq) = true) ∧
    (∃ t, step { pending with turns := [.sync] } = .next t ∧ t.pReq = true) ∧
    State.LowerPReady { pending with pAck := true } ∧ ¬pending.LowerPReady :=
  ⟨by decide, nextOf_exists (p := fun t => !t.pReq) (by decide), nextOf_exists (p := fun t => t.pReq) (by decide), by decide,
    by decide⟩

theorem witness_PermutationTableDetectsOneByte : Function.Bijective (id : Byte → Byte) ∧ (0x64 : Byte) ≠ 0x65 :=
  ⟨Function.bijective_id, by decide⟩

/-- The machine at the top of the loop with these bytes at the source and these turns next; `a` says whether a read is
outstanding. -/
def feeding (a : Bool) (bytes : List Byte) (ts : List Turn) : State :=
  { at' .seekFirst 0 with armed := a, source := bytes.map byteWord, turns := ts }

theorem witness_ValidFrameRequestsOnePublish :
    (∀ a, (feeding a (encodeFrame r1) (List.replicate (if a then 22 else 23) .sync)).AtFrameStart) ∧
    (∀ a, (feeding a (encodeFrame r1) (List.replicate (if a then 22 else 23) .sync)).source =
      (encodeFrame r1).map byteWord ++ []) ∧
    (∀ a, (feeding a (encodeFrame r1) (List.replicate (if a then 22 else 23) .sync)).turns =
      List.replicate (State.turnsToAccept (feeding a (encodeFrame r1) (List.replicate (if a then 22 else 23) .sync)) 22)
        .sync ++ []) ∧ 0 < 22 :=
  ⟨fun _ => ⟨rfl, rfl, rfl, ⟨rfl, rfl⟩, .inr rfl⟩, fun _ => (List.append_nil _).symm, fun a => by cases a <;> rfl, by decide⟩

/-- A valid frame at the source, two TAKEs at the host port, and the turns that run them. -/
def feedThenTake : State :=
  { feeding true (encodeFrame r1)
      (List.replicate 22 .sync ++ [.storeP, .sync, .storeP] ++
        [.hostIssue, .storeC, .hostReturn, .storeC, .hostIssue, .storeC, .hostReturn]) with
    hostOps := [hostWord 2 0, hostWord 2 0] }

theorem witness_ValidFrameIsTakenExactlyOnce :
    feedThenTake.AtFrameStart ∧ ¬feedThenTake.HostBusy ∧ feedThenTake.TakeIdle ∧
    feedThenTake.source = (encodeFrame r1).map byteWord ++ [] ∧
    feedThenTake.hostOps = hostWord 2 0 :: hostWord 2 0 :: [] ∧
    feedThenTake.turns = List.replicate (feedThenTake.turnsToAccept 22) .sync ++ [.storeP, .sync, .storeP] ++
      [.hostIssue, .storeC, .hostReturn, .storeC, .hostIssue, .storeC, .hostReturn] ++ [] :=
  ⟨⟨rfl, rfl, rfl, ⟨rfl, rfl⟩, .inr rfl⟩, by decide, ⟨rfl, rfl⟩, (List.append_nil _).symm, rfl, rfl⟩

/-- The wrong checksum byte: one more than the right one, whatever the table. -/
def wrong1 : Byte := crc8 (encodePayload r1).toList + 1

theorem witness_MismatchedChecksumIsDiscarded :
    (3 ≤ 3 ∧ 3 ≤ 18 ∧ 3 ≤ 18 ∧ 18 ≤ 18) ∧
    (feeding true (frameBytes r1 wrong1) (List.replicate 22 .sync)).AtFrameStart ∧
    wrong1 ≠ crc8 (encodePayload r1).toList ∧
    (feeding true (frameBytes r1 wrong1) (List.replicate 22 .sync)).source = (frameBytes r1 wrong1).map byteWord ++ [] ∧
    (feeding true (frameBytes r1 wrong1) (List.replicate 22 .sync)).turns =
      List.replicate (State.turnsToAccept (feeding true (frameBytes r1 wrong1) (List.replicate 22 .sync)) 22) .sync ++ [] :=
  ⟨by decide, ⟨rfl, rfl, rfl, ⟨rfl, rfl⟩, .inr rfl⟩, (succ_ne _).symm, (List.append_nil _).symm, rfl⟩

theorem witness_TruncatedStreamResynchronizes :
    (offered (at' .readBody 18) (srcWord 1 0)).InReady ∧ (offered (at' .readBody 18) (srcWord 1 0)).syncState = .readBody ∧
    (offered (at' .readBody 18) (srcWord 1 0)).cnt ≤ 18 ∧ (offered (at' .readBody 18) (srcWord 1 0)).source = srcWord 1 0 :: [] ∧
    (offered (at' .readBody 18) (srcWord 1 0)).turns = .sync :: [] ∧ (offered (at' .readBody 18) (srcWord 1 0)).runFlag = true := by
  decide

theorem witness_DoubledFirstMarkerIsNotReexamined :
    (feeding true [0xAA, 0xAA, 0x55, 0x11] (List.replicate 6 .sync)).AtFrameStart ∧
    (feeding true [0xAA, 0xAA, 0x55, 0x11] (List.replicate 6 .sync)).source =
      [byteWord 0xAA, byteWord 0xAA, byteWord 0x55, byteWord 0x11] ++ [] ∧
    (feeding true [0xAA, 0xAA, 0x55, 0x11] (List.replicate 6 .sync)).turns = List.replicate 6 .sync ++ [] := by decide

theorem witness_EveryStepKeepsTheInvariant :
    (offered (at' .readBody 18) (srcWord 1 0)).Inv ∧
    ∃ t, step (offered (at' .readBody 18) (srcWord 1 0)) = .next t ∧ (t.cnt == 0) = true :=
  ⟨⟨by decide, by decide, by decide, by decide, by decide, by decide, by decide, by decide, by decide, by decide⟩,
    nextOf_exists (p := fun t => t.cnt == 0) (by decide)⟩

/-- A step of each agent but RST. -/
theorem witness_OnlyTheOwnerWrites :
    (∃ t, step (bothPending [.storeP]) = .next t ∧ t.pAck = true) ∧ (∃ t, step (bothPending [.storeC]) = .next t ∧ t.cAck = true) ∧
    (∃ t, step (offered (at' .seekFirst 0) 0x0AA) = .next t ∧ (!t.armed) = true) ∧
    (∃ t, step (issued (at' .seekFirst 0) 0b010) = .next t ∧ (!t.runFlag) = true) ∧
    (∃ t, step (issued State.reset 0b001) = .next t ∧ t.loopAlive = true) ∧
    (∃ t, step { asked with cAck := true, turns := [.hostReturn] } = .next t ∧ (!t.cReq) = true) ∧
    (bothPending [.storeP]).nextTurn ≠ .rst ∧ (issued (at' .seekFirst 0) 0b010).life ≠ .idle :=
  ⟨nextOf_exists (p := fun t => t.pAck) (by decide), nextOf_exists (p := fun t => t.cAck) (by decide),
    nextOf_exists (p := fun t => !t.armed) (by decide), nextOf_exists (p := fun t => !t.runFlag) (by decide),
    nextOf_exists (p := fun t => t.loopAlive) (by decide), nextOf_exists (p := fun t => !t.cReq) (by decide), by decide,
    by decide⟩

/-- Two states that differ in the slot, the mode and the take handshake, and agree in what SYNC may read. -/
theorem witness_SyncReadsOnlyItsOwnView :
    (offered (at' .seekFirst 0) 0x0AA).syncView =
      State.syncView { offered (at' .seekFirst 0) 0x0AA with slotValid := true, slotRec := r1, cReq := true } ∧
    ∃ t, (offered (at' .seekFirst 0) 0x0AA).agentStep .sync = .next t ∧ (t.syncState == .seekSecond) = true :=
  ⟨rfl, nextOf_exists (p := fun t => t.syncState == .seekSecond) (by decide)⟩

/-- Each change of `life`. -/
theorem witness_LifeMovesByTheLifecycleTable :
    (∃ t, step (issued State.reset 0b001) = .next t ∧ (t.life == .running) = true) ∧
    (∃ t, step (issued (at' .seekFirst 0) 0b010) = .next t ∧ (t.life == .stopping) = true) ∧
    (∃ t, step (issued State.reset 0b010) = .next t ∧ (t.life == .stopped) = true) ∧
    (∃ t, step { inLife .stopping with turns := [.hostReturn] } = .next t ∧ (t.life == .stopped) = true) ∧
    (∃ t, step { inLife .stopped with turns := [.rst], rst := 1 } = .next t ∧ (t.life == .idle) = true) :=
  ⟨nextOf_exists (p := fun t => t.life == .running) (by decide), nextOf_exists (p := fun t => t.life == .stopping) (by decide),
    nextOf_exists (p := fun t => t.life == .stopped) (by decide), nextOf_exists (p := fun t => t.life == .stopped) (by decide),
    nextOf_exists (p := fun t => t.life == .idle) (by decide)⟩

/-- The loop ends at a CHECK and at a FATAL event, and comes to life at START. -/
theorem witness_LoopEndsInTwoWaysOnly :
    (∃ t, step { at' .seekFirst 0 with armed := false, runFlag := false, life := .stopping, turns := [.sync] } = .next t ∧
      (!t.loopAlive) = true) ∧
    (∃ t, step (offered (at' .readBody 5) 0x200) = .next t ∧ (!t.loopAlive && t.fatal) = true) ∧
    (∃ t, step (issued State.reset 0b001) = .next t ∧ t.loopAlive = true) ∧
    State.reset.loopAlive = false ∧ (at' .readBody 5).loopAlive = true ∧ (issued State.reset 0b001).nextTurn ≠ .rst :=
  ⟨nextOf_exists (p := fun t => !t.loopAlive) (by decide), nextOf_exists (p := fun t => !t.loopAlive && t.fatal) (by decide),
    nextOf_exists (p := fun t => t.loopAlive) (by decide), by decide, by decide, by decide⟩

/-- After a fatal event a byte is offered and stays. -/
theorem witness_DeadLoopStaysDeadUntilReset :
    (∃ t, step { inLife .running with fatal := true, source := [0x0AA], turns := [.sync] } = .next t ∧
      (t.source == [0x0AA]) = true) ∧
    (inLife .running).loopAlive = false ∧ (inLife .running).life ≠ .idle ∧
    (offered (inLife .running) 0x0AA).nextTurn ≠ .rst :=
  ⟨nextOf_exists (p := fun t => t.source == [0x0AA]) (by decide), by decide, by decide, by decide⟩

theorem witness_FatalIsSticky :
    (∃ t, step (offered (at' .seekFirst 0) 0x2FF) = .next t ∧ t.fatal = true) ∧
    (∃ t, step { State.reset with fatal := true, turns := [.rst], rst := 1 } = .next t ∧ (!t.fatal) = true) :=
  ⟨nextOf_exists (p := fun t => t.fatal) (by decide), nextOf_exists (p := fun t => !t.fatal) (by decide)⟩

/-- An event consumed, an event held, bytes arriving. -/
theorem witness_SourceEventsAreConsumedInOrder :
    (∃ t, step (offered (at' .seekFirst 0) 0x055) = .next t ∧ (t.source == []) = true) ∧
    (∃ t, step (offered State.reset 0x055) = .next t ∧ (t.source == [0x055]) = true) ∧
    (∃ t, step { State.reset with wire := [frameUnit r2 0xD0], turns := [.src] } = .next t ∧ (t.source.length == 22) = true) :=
  ⟨nextOf_exists (p := fun t => t.source == []) (by decide), nextOf_exists (p := fun t => t.source == [0x055]) (by decide),
    nextOf_exists (p := fun t => t.source.length == 22) (by decide +kernel)⟩

/-- The 19th byte of a frame whose checksum byte is right, whatever the table. -/
theorem witness_OnlyValidatedFramesArePublished :
    (offered (full sum1) 0x0AA).pReq = false ∧ ∃ t, step (offered (full sum1) 0x0AA) = .next t ∧ t.pReq = true := by
  refine ⟨rfl, _, rfl, ?_⟩
  exact congrArg State.pReq (State.judge_good (s := { (offered (full sum1) 0x0AA).advance.consume with
    buf := (full sum1).buf.set 18 0xAA }) ((validate_full sum1).trans (if_neg (fun h => h rfl))))

theorem witness_LabelsAreEmittedByTheseOperationsOnly :
    (∃ t, exec .sfMark0 (at' .seekFirst 0) = .next t ∧ (t.out.evt == some .okQuiet) = true) ∧
    (∃ t, exec .check { at' .seekFirst 0 with armed := false } = .next t ∧ (t.out.evt == none) = true) ∧
    (∃ t, exec .startFail State.reset = .next t ∧ (t.out.evt == some .eOpen) = true) ∧
    (∃ t, exec (.startRej 1) (inLife .stopped) = .next t ∧ (t.out.evt == some (.eStart .stopped)) = true) ∧
    (∃ t, exec (.stat 0) State.reset = .next t ∧ (t.out.evt == none) = true) ∧
    (Instr.sfMark0.isAccept = true ∧ Instr.sfMark0.selectedIn (at' .seekFirst 0).mode = true ∧ (at' .seekFirst 0).InReady) :=
  ⟨nextOf_exists (p := fun t => t.out.evt == some .okQuiet) (by decide),
    nextOf_exists (p := fun t => t.out.evt == none) (by decide),
    nextOf_exists (p := fun t => t.out.evt == some .eOpen) (by decide),
    nextOf_exists (p := fun t => t.out.evt == some (.eStart .stopped)) (by decide),
    nextOf_exists (p := fun t => t.out.evt == none) (by decide), by decide⟩

/-- STOP was issued with a read outstanding. -/
def stoppingArmed : State :=
  { at' .seekFirst 0 with life := .stopping, runFlag := false, source := [srcWord 1 0], turns := [.sync, .sync, .hostReturn] }

theorem witness_StopReturnsAfterOneTimeout :
    stoppingArmed.AtFrameStart ∧ stoppingArmed.armed = true ∧ stoppingArmed.runFlag = false ∧ stoppingArmed.life = .stopping ∧
    stoppingArmed.source = srcWord 1 0 :: [] ∧ stoppingArmed.turns = [.sync, .sync, .hostReturn] ++ [] := by decide

theorem witness_DecodeOfEncodeIsTheOperation :
    (Instr.rbStore 0xAA).wellFormed = true ∧ (Instr.rbStore 0xAA).selectedIn (inPhase .readBody 17) = true ∧
    encode (.rbStore 0xAA) = some (.src 0x0AA) ∧
    (Instr.frame r2 0xD0).wellFormed = true ∧ (Instr.frame r2 0xD0).selectedIn (inMode .idle) = true ∧
    encode (.frame r2 0xD0) = some (.wire (frameUnit r2 0xD0)) := by decide

theorem witness_EncodeOfDecodeIsTheWord :
    decode (inPhase .readBody 18) (.src 0x0AA) = .ok (.rbLast 0xAA) ∧ decode (inMode .stopped) (.host 0b101) = .ok (.take 1) := by
  decide

/-- Each clause: the words at the four ports, and the internal steps. -/
theorem witness_StepRunsTheSelectedOperation_words :
    ((offered (at' .seekFirst 0) 0x0AA).nextTurn = .sync ∧ ¬(offered (at' .seekFirst 0) 0x0AA).LowerPReady ∧
      ¬(offered (at' .seekFirst 0) 0x0AA).CheckReady ∧ (offered (at' .seekFirst 0) 0x0AA).source = 0x0AA :: [] ∧
      decode (offered (at' .seekFirst 0) 0x0AA).mode (.src 0x0AA) = .ok .sfMark0) ∧
    ((issued State.reset 0b001).nextTurn = .hostIssue ∧ (issued State.reset 0b001).hostOps = 0b001 :: [] ∧
      decode (issued State.reset 0b001).mode (.host 0b001) = .ok .startOk) ∧
    (State.nextTurn { State.reset with rst := 1, turns := [.rst] } = .rst ∧ decode State.reset.mode (.rst 1) = .ok .reset) ∧
    (State.nextTurn { State.reset with wire := [frameUnit r2 0xD0], turns := [.src] } = .src ∧
      decode State.reset.mode (.wire (frameUnit r2 0xD0)) = .ok (.frame r2 0xD0)) := by decide +kernel

theorem witness_StepRunsTheSelectedOperation_internal :
    State.LowerPReady { pending with pAck := true } ∧ State.CheckReady { at' .seekFirst 0 with armed := false } ∧
    pending.ServePReady ∧ State.ClearPReady { State.reset with pAck := true } ∧ asked.ServeCReady ∧
    State.ClearCReady { State.reset with cAck := true } ∧ (inLife .stopping).StopRetReady ∧
    (¬State.StopRetReady { asked with cAck := true } ∧ State.LowerCReady { asked with cAck := true }) := by decide

/-! ## The liveness premises can be met: fair runs in which the theorems of Laws/Fairness.lean apply -/

/-- A fair run with a live source: a TIMEOUT ends the read, CHECK ends the loop, STOP returns, and nothing is left to do. -/
def windingDown : Nat → State := play stoppingArmed [.sync, .sync, .hostReturn, .src]

theorem witness_stop_eventually_returns :
    (IsRun windingDown ∧ WeaklyFair windingDown ∧ SourceLive windingDown) ∧ (windingDown 0).Inv ∧
      (windingDown 0).life = .stopping ∧ StopReturnsAt windingDown 2 := by
  have rest : (windingDown 4).AtRest :=
    ⟨by intro turn; cases turn <;> simp only [State.Enabled] <;> decide, by decide, by decide⟩
  have r := play_isRun rest (Nat.le_refl 4) fun n lt =>
    (nextOf_exists (p := fun _ => true) (by revert n; decide)).imp fun _ h => h.1
  exact ⟨⟨r.1, r.2.1, r.2.2 (by decide)⟩, by constructor <;> decide, by decide, by decide⟩

/-- A fair run with a publish and a take pending: both handshakes run to their end, and CHECK arms the next read. -/
def serving : Nat → State :=
  play { pending with cReq := true } [.storeP, .storeC, .sync, .hostReturn, .storeP, .storeC, .sync]

theorem witness_requests_eventually_served :
    (IsRun serving ∧ WeaklyFair serving) ∧ (serving 0).ServePReady ∧ (serving 0).ServeCReady := by
  have rest : (serving 7).AtRest :=
    ⟨by intro turn; cases turn <;> simp only [State.Enabled] <;> decide, by decide, by decide⟩
  have r := play_isRun rest (Nat.le_refl 7) fun n lt =>
    (nextOf_exists (p := fun _ => true) (by revert n; decide)).imp fun _ h => h.1
  exact ⟨⟨r.1, r.2.1⟩, by decide, by decide⟩

end Sys2Proof.Tests
end

section
/-! PROOFS. A step runs the operation that the agent whose turn it is selects (00_scope R10). First when each agent selects which
operation, the other direction of the `_run` lemmas of Laws/Agents.lean; then that a step runs the selected operation; then O59. -/

namespace Sys2Proof.Machine

variable {s : State} {i : Instr}

/-! ## What each agent selects -/

@[simp] theorem selectDecoded_ok (i : Instr) : selectDecoded (.ok i) = .run i := rfl

/-- SRC runs the row its wire unit decodes to. -/
theorem State.selectSrc_of_unit {u : BitVec 176} {rest : List (BitVec 176)} (head : s.wire = u :: rest)
    (row : decode s.mode (.wire u) = .ok i) : s.selectSrc = .run i := by
  simp only [State.selectSrc, head, row]

/-- P_LOWER comes first in SYNC's turn. -/
theorem State.selectSync_of_lowerPReady (h : s.LowerPReady) : s.selectSync = .run .pLower := if_pos h

/-- P_LOWER waits for a publish that CHECK requires not to be there. -/
theorem State.CheckReady.not_lowerPReady (h : s.CheckReady) : ¬s.LowerPReady := by
  obtain ⟨_, _, _, noReq, _⟩ := h
  rintro ⟨req, _⟩
  exact Bool.false_ne_true (noReq.symm.trans req)

theorem State.selectSync_of_checkReady (h : s.CheckReady) : s.selectSync = .run .check := by
  rw [State.selectSync, if_neg h.not_lowerPReady, if_pos h]

/-- With no step of its own enabled, SYNC runs the row the offered event decodes to. -/
theorem State.selectSync_of_word {w : BitVec 10} {rest : List (BitVec 10)} (noLower : ¬s.LowerPReady)
    (noCheck : ¬s.CheckReady) (head : s.source = w :: rest) (row : decode s.mode (.src w) = .ok i) :
    s.selectSync = .run i := by
  simp only [State.selectSync, if_neg noLower, if_neg noCheck, head, row, selectDecoded_ok]

theorem State.selectStoreP_of_servePReady (h : s.ServePReady) : s.selectStoreP = .run .sServeP := if_pos h

/-- S_SERVE_P needs the request that S_CLEAR_P requires to be withdrawn. -/
theorem State.ClearPReady.not_servePReady (h : s.ClearPReady) : ¬s.ServePReady := fun serve =>
  Bool.false_ne_true (h.1.symm.trans serve.1)

theorem State.selectStoreP_of_clearPReady (h : s.ClearPReady) : s.selectStoreP = .run .sClearP := by
  rw [State.selectStoreP, if_neg h.not_servePReady, if_pos h]

theorem State.selectStoreC_of_serveCReady (h : s.ServeCReady) : s.selectStoreC = .run .sServeC := if_pos h

/-- S_SERVE_C needs the request that S_CLEAR_C requires to be withdrawn. -/
theorem State.ClearCReady.not_serveCReady (h : s.ClearCReady) : ¬s.ServeCReady := fun serve =>
  Bool.false_ne_true (h.1.symm.trans serve.1)

theorem State.selectStoreC_of_clearCReady (h : s.ClearCReady) : s.selectStoreC = .run .sClearC := by
  rw [State.selectStoreC, if_neg h.not_serveCReady, if_pos h]

/-- HOST issues the row its word decodes to. -/
theorem State.selectHostIssue_of_word {w : BitVec 3} {rest : List (BitVec 3)} (head : s.hostOps = w :: rest)
    (row : decode s.mode (.host w) = .ok i) : s.selectHostIssue = .run i := by
  simp only [State.selectHostIssue, head, row, selectDecoded_ok]

/-- STOP's return comes before TAKE's. -/
theorem State.selectHostReturn_of_stopRetReady (h : s.StopRetReady) : s.selectHostReturn = .run .stopRet := if_pos h

theorem State.selectHostReturn_of_lowerCReady (noStop : ¬s.StopRetReady) (h : s.LowerCReady) :
    s.selectHostReturn = .run .cLower := by
  rw [State.selectHostReturn, if_neg noStop, if_pos h]

/-- RST runs the row the reset input decodes to. -/
theorem State.selectRst_of_input (row : decode s.mode (.rst s.rst) = .ok i) : s.selectRst = .run i := by
  simp only [State.selectRst, row]

/-! ## A step runs what is selected -/

/-- What an agent selects does not depend on the interleaving: it reads neither the turns nor the tick. -/
theorem State.select_advance (s : State) (turn : Turn) : s.advance.select turn = s.select turn := by
  cases turn <;> rfl

/-- A step of the agent whose turn it is runs the operation it selects, on the state with the turn taken. -/
theorem step_of_select {turn : Turn} (next : s.nextTurn = turn) (sel : s.select turn = .run i) :
    step s = exec i s.advance := by
  calc step s = s.advance.perform (s.advance.select turn) := by rw [step_eq, next, State.agentStep]
    _ = s.advance.perform (.run i) := by rw [State.select_advance, sel]
    _ = exec i s.advance := rfl

/-- Settles O59: each clause is what its agent selects, run by `step_of_select`. -/
theorem stepRunsTheSelectedOperation : Obligations.StepRunsTheSelectedOperation := by
  intro s i
  refine ⟨?word, ?issue, ?reset, ?unit, ?lowerP, ?check, ?serveP, ?clearP, ?serveC, ?clearC, ?stopRet, ?lowerC⟩
  case word =>
    intro w rest turn noLower noCheck head row
    exact step_of_select turn (State.selectSync_of_word noLower noCheck head row)
  case issue =>
    intro w rest turn head row
    exact step_of_select turn (State.selectHostIssue_of_word head row)
  case reset => exact fun turn row => step_of_select turn (State.selectRst_of_input row)
  case unit =>
    intro u rest turn head row
    exact step_of_select turn (State.selectSrc_of_unit head row)
  case lowerP => exact fun turn h => step_of_select turn (State.selectSync_of_lowerPReady h)
  case check => exact fun turn h => step_of_select turn (State.selectSync_of_checkReady h)
  case serveP => exact fun turn h => step_of_select turn (State.selectStoreP_of_servePReady h)
  case clearP => exact fun turn h => step_of_select turn (State.selectStoreP_of_clearPReady h)
  case serveC => exact fun turn h => step_of_select turn (State.selectStoreC_of_serveCReady h)
  case clearC => exact fun turn h => step_of_select turn (State.selectStoreC_of_clearCReady h)
  case stopRet => exact fun turn h => step_of_select turn (State.selectHostReturn_of_stopRetReady h)
  case lowerC => exact fun turn noStop h => step_of_select turn (State.selectHostReturn_of_lowerCReady noStop h)

end Sys2Proof.Machine
end

section
/-! PROOFS. The invariant of 10_state R40 and the sticky `fatal`: first what the invariant says of a state, then what keeps it,
then each move. A case names, by `{ inv with … }`, the clauses that its move bears on; the others read only what it leaves. -/

namespace Sys2Proof.Machine

variable {s t : State}

/-! ## After reset -/

/-- Settles O17: the reset values of 10_state R39, element by element. -/
theorem resetStateHasTheSpecsValues : Obligations.ResetStateHasTheSpecsValues :=
  ⟨rfl, rfl, rfl, rfl, rfl, rfl, rfl, rfl, rfl, rfl, rfl, rfl⟩

/-- Settles O44: after reset the loop is dead, Idle and clean, and no handshake is in flight. -/
theorem resetStateIsInvariant : Obligations.ResetStateIsInvariant where
  count_le := by decide
  count_in_body := absurd rfl
  armed_seeking := nofun
  dead_clean := fun _ => ⟨rfl, rfl, rfl⟩
  alive_life := nofun
  fatal_dead := nofun
  run_running := nofun
  idle_clean := fun _ => ⟨rfl, rfl, rfl⟩
  publish_holds := nofun
  take_not_stopping := nofun

/-! ## What the invariant says of a state -/

theorem State.PublishIdle.not_inFlight (idle : s.PublishIdle) : ¬(s.pReq = true ∨ s.pAck = true) := by
  obtain ⟨noReq, noAck⟩ := idle
  simp [noReq, noAck]

/-- SYNC accepts no event while a publish is in flight (41_frame_synchronizer R110). -/
theorem State.InReady.not_inFlight (ready : s.InReady) : ¬(s.pReq = true ∨ s.pAck = true) := by
  obtain ⟨-, idle, -⟩ := ready
  exact idle.not_inFlight

theorem State.Inv.count_zero (inv : s.Inv) (phase : s.syncState ≠ .readBody) : s.cnt = 0 :=
  not_not.mp fun count => phase (inv.count_in_body count)

theorem State.Inv.unarmed (inv : s.Inv) (phase : s.syncState ≠ .seekFirst) : s.armed = false :=
  eq_false_of_ne_true fun armed => phase (inv.armed_seeking armed).1

/-- No publish is in flight without a live loop. -/
theorem State.Inv.publishIdle_of_dead (inv : s.Inv) (dead : s.loopAlive = false) : s.PublishIdle := by
  have notAlive : s.loopAlive ≠ true := ne_true_of_eq_false dead
  exact ⟨eq_false_of_ne_true fun req => notAlive (inv.publish_holds (.inl req)).1,
    eq_false_of_ne_true fun ack => notAlive (inv.publish_holds (.inr ack)).1⟩

/-- A live loop is not in Idle or Stopped (R40 (e)). -/
theorem State.Inv.dead_of_life (inv : s.Inv) (life : s.life = .idle ∨ s.life = .stopped) : s.loopAlive = false :=
  eq_false_of_ne_true fun alive => by
    have working := inv.alive_life alive
    obtain life | life := life <;> simp [life] at working

theorem State.Inv.noRun_of_life (inv : s.Inv) (life : s.life ≠ .running) : s.runFlag = false :=
  eq_false_of_ne_true fun run => life (inv.run_running run)

/-! ## What keeps it -/

/-- Which agent is next is no part of the invariant. -/
theorem State.Inv.advance (inv : s.Inv) : s.advance.Inv := { inv with }

/-- An accepted event after which the loop lives on, unarmed: what is left to show is about the phase, the count and the
publish request. -/
theorem State.Inv.of_event (inv : s.Inv) (ready : s.InReady) (host : t.hostPart = s.hostPart)
    (live : t.loopAlive = s.loopAlive ∧ t.fatal = s.fatal) (unarmed : t.armed = false) (count_le : t.cnt ≤ 18)
    (count_in_body : t.cnt ≠ 0 → t.syncState = .readBody)
    (top : t.pReq = true ∨ t.pAck = true → t.syncState = .seekFirst) : t.Inv := by
  obtain ⟨alive, -, -⟩ := ready
  obtain ⟨sameAlive, sameFatal⟩ := live
  have aliveAfter : t.loopAlive = true := sameAlive.trans alive
  simp only [State.hostPart, Prod.mk.injEq] at host
  obtain ⟨sameLife, sameRun, sameTake⟩ := host
  exact {
    count_le, count_in_body
    armed_seeking := fun armed => absurd armed (ne_true_of_eq_false unarmed)
    dead_clean := fun dead => absurd aliveAfter (ne_true_of_eq_false dead)
    alive_life := fun _ => sameLife ▸ inv.alive_life alive
    fatal_dead := fun fatal => sameAlive.trans (inv.fatal_dead (sameFatal.symm.trans fatal))
    run_running := fun run => sameLife.trans (inv.run_running (sameRun.symm.trans run))
    idle_clean := fun idle =>
      absurd alive (ne_true_of_eq_false (inv.idle_clean (sameLife.symm.trans idle)).1)
    publish_holds := fun inFlight => ⟨aliveAfter, top inFlight, unarmed⟩
    take_not_stopping := fun take => sameLife ▸ inv.take_not_stopping (sameTake.symm.trans take) }

/-- A step that ends the loop, at the top and with no publish in flight. -/
theorem State.Inv.of_end (inv : s.Inv) (alive : s.loopAlive = true) (host : t.hostPart = s.hostPart)
    (dead : t.loopAlive = false) (top : t.syncState = .seekFirst ∧ t.cnt = 0 ∧ t.armed = false)
    (landed : ¬(t.pReq = true ∨ t.pAck = true)) : t.Inv := by
  obtain ⟨seeking, count, unarmed⟩ := top
  simp only [State.hostPart, Prod.mk.injEq] at host
  obtain ⟨sameLife, sameRun, sameTake⟩ := host
  exact {
    count_le := by simp [count]
    count_in_body := absurd count
    armed_seeking := fun armed => absurd armed (ne_true_of_eq_false unarmed)
    dead_clean := fun _ => ⟨seeking, count, unarmed⟩
    alive_life := fun aliveAfter => absurd aliveAfter (ne_true_of_eq_false dead)
    fatal_dead := fun _ => dead
    run_running := fun run => sameLife.trans (inv.run_running (sameRun.symm.trans run))
    idle_clean := fun idle => absurd alive (ne_true_of_eq_false (inv.idle_clean (sameLife.symm.trans idle)).1)
    publish_holds := fun inFlight => absurd inFlight landed
    take_not_stopping := fun take => sameLife ▸ inv.take_not_stopping (sameTake.symm.trans take) }

/-- STOP returns, at once or later: the loop is dead and the run flag is down (44_lifecycle_control R175, R176). -/
theorem State.Inv.stopped (inv : s.Inv) (life : s.life ≠ .running) (dead : s.loopAlive = false) :
    State.Inv { s with life := .stopped } := by
  have noRun : s.runFlag = false := inv.noRun_of_life life
  exact { inv with
    alive_life := fun alive => absurd alive (ne_true_of_eq_false dead)
    run_running := fun run => absurd run (ne_true_of_eq_false noRun)
    idle_clean := nofun
    take_not_stopping := nofun }

/-- The end of a frame: whatever the verdict the loop is back at the top, so that a publish may be requested. -/
theorem State.Inv.judge (inv : s.Inv) (ready : s.InReady) (unarmed : s.armed = false) : s.judge.Inv := by
  obtain ⟨l, ⟨verdict, -⟩ | ⟨verdict, -⟩⟩ := State.judge_cases s <;> rw [verdict] <;>
    exact inv.of_event ready rfl ⟨rfl, rfl⟩ unarmed (by simp) (absurd rfl) fun _ => rfl

/-- Each move keeps the invariant. -/
theorem Moves.inv {turn : Turn} (move : Moves s turn t) (inv : s.Inv) : t.Inv := by
  cases move with
  | waits => exact { inv with }
  | delivers => exact { inv with }
  | firstMark ready rest head phase =>
    have count : s.cnt = 0 := inv.count_zero (by simp [phase])
    exact inv.of_event ready rfl ⟨rfl, rfl⟩ rfl inv.count_le (absurd count) fun inFlight =>
      absurd inFlight ready.not_inFlight
  | skips ready w rest head kind phase =>
    exact inv.of_event ready rfl ⟨rfl, rfl⟩ rfl inv.count_le inv.count_in_body fun _ => phase
  | secondMark ready rest head phase =>
    have count : s.cnt = 0 := inv.count_zero (by simp [phase])
    exact inv.of_event ready rfl ⟨rfl, rfl⟩ (inv.unarmed (by simp [phase])) inv.count_le (absurd count) fun inFlight =>
      absurd inFlight ready.not_inFlight
  | length ready rest head phase =>
    exact inv.of_event ready rfl ⟨rfl, rfl⟩ (inv.unarmed (by simp [phase])) (by simp) (fun _ => rfl) fun inFlight =>
      absurd inFlight ready.not_inFlight
  | abandons ready w rest head kind phase =>
    exact inv.of_event ready rfl ⟨rfl, rfl⟩ (inv.unarmed phase) (by simp) (absurd rfl) fun _ => rfl
  | stores ready data rest head phase room =>
    have count_le : s.cnt + 1 ≤ 18 := by bv_omega
    exact inv.of_event ready rfl ⟨rfl, rfl⟩ (inv.unarmed (by simp [phase])) count_le (fun _ => phase) fun inFlight =>
      absurd inFlight ready.not_inFlight
  | judges ready data rest head phase full =>
    have stored : State.Inv { s.consume with buf := s.buf.set 18 data } := { inv with }
    exact stored.judge ready (inv.unarmed (by simp [phase]))
  | dies ready w rest head kind =>
    exact inv.of_end ready.1 rfl rfl ⟨rfl, rfl, rfl⟩ ready.not_inFlight
  | arms ready run =>
    obtain ⟨alive, phase, -, idle⟩ := ready
    exact { inv with
      armed_seeking := fun _ => ⟨phase, alive⟩
      dead_clean := fun dead => absurd alive (ne_true_of_eq_false dead)
      publish_holds := fun inFlight => absurd inFlight idle.not_inFlight }
  | ends ready run =>
    obtain ⟨alive, phase, unarmed, idle⟩ := ready
    exact inv.of_end alive rfl rfl ⟨phase, inv.count_zero (by simp [phase]), unarmed⟩ idle.not_inFlight
  | lowersP ready => exact { inv with publish_holds := fun _ => inv.publish_holds (.inl ready.1) }
  | servesP ready => exact { inv with publish_holds := fun _ => inv.publish_holds (.inl ready.1) }
  | clearsP ready => exact { inv with publish_holds := fun _ => inv.publish_holds (.inr ready.2) }
  | servesC => exact { inv with }
  | clearsC => exact { inv with }
  | starts free mode =>
    obtain ⟨dead, -, notFatal⟩ := inv.idle_clean mode
    exact {
      count_le := by simp
      count_in_body := absurd rfl
      armed_seeking := nofun
      dead_clean := nofun
      alive_life := fun _ => .inl rfl
      fatal_dead := fun fatal => absurd fatal (ne_true_of_eq_false notFatal)
      run_running := fun _ => rfl
      idle_clean := nofun
      publish_holds := fun inFlight => absurd inFlight (inv.publishIdle_of_dead dead).not_inFlight
      take_not_stopping := nofun }
  | replies => exact { inv with }
  | stops free =>
    exact { inv with
      alive_life := fun _ => .inr rfl
      run_running := nofun
      idle_clean := nofun
      take_not_stopping := fun take => absurd (.inr take) free }
  | stopsAtOnce free mode =>
    have notRunning : s.life ≠ .running := fun run => by simp [run] at mode
    exact { inv.stopped notRunning (inv.dead_of_life mode) with }
  | requests free => exact { inv with take_not_stopping := fun _ stopping => free (.inl stopping) }
  | stopReturns ready =>
    obtain ⟨stopping, dead⟩ := ready
    exact { inv.stopped (by simp [stopping]) dead with }
  | takeReturns => exact { inv with take_not_stopping := nofun }
  | resets => exact { resetStateIsInvariant with }

/-- Settles O45: a step is one of the moves, and each keeps the invariant. -/
theorem everyStepKeepsTheInvariant : Obligations.EveryStepKeepsTheInvariant := fun _ _ inv next =>
  (step_moves next).inv inv.advance

/-! ## The sticky fatal bit -/

/-- Judging a frame is no fatal event. -/
theorem State.judge_fatal (s : State) : s.judge.fatal = s.fatal := by
  obtain ⟨l, ⟨verdict, -⟩ | ⟨verdict, -⟩⟩ := State.judge_cases s <;> rw [verdict] <;> rfl

/-- What a move does to `fatal`: nothing, unless it is a RESET or accepts a FATAL event (10_state R30). -/
theorem Moves.fatal_cases {turn : Turn} (move : Moves s turn t) :
    t.fatal = s.fatal ∨ (turn = .rst ∧ t.fatal = false) ∨
      (turn = .sync ∧ s.InReady ∧ s.source.head?.map srcKind = some 2 ∧ t.fatal = true) := by
  cases move with
  | dies ready w rest head kind => exact .inr (.inr ⟨rfl, ready, by simp [head, kind], rfl⟩)
  | resets => exact .inr (.inl ⟨rfl, rfl⟩)
  | judges => exact .inl (State.judge_fatal _)
  | _ => exact .inl rfl

/-- Settles O51, by the three things a move can do to `fatal`. -/
theorem fatalIsSticky : Obligations.FatalIsSticky := by
  intro s t next
  obtain same | ⟨rst, cleared⟩ | ⟨sync, ready, event, raised⟩ := (step_moves next).fatal_cases
  · exact ⟨fun set clear => absurd set (ne_true_of_eq_false (same.symm.trans clear)),
      fun clear set => absurd (same.symm.trans set) (ne_true_of_eq_false clear)⟩
  · exact ⟨fun _ _ => rst, fun _ set => absurd set (ne_true_of_eq_false cleared)⟩
  · exact ⟨fun _ clear => absurd raised (ne_true_of_eq_false clear), fun _ _ => ⟨sync, ready, event⟩⟩

end Sys2Proof.Machine
end

section
/-! PROOFS. Ownership, the source's order and what may be published (20_memory R59 (f), R63, R64): first what judging a frame
does, then, for each owner's elements, the source and the publish request, what a move can do to them. -/

namespace Sys2Proof.Machine

variable {s t : State} {turn : Turn}

/-! ## Judging a frame -/

theorem State.judge_storePart (s : State) : s.judge.storePart = s.storePart := by
  obtain ⟨l, ⟨verdict, -⟩ | ⟨verdict, -⟩⟩ := State.judge_cases s <;> rw [verdict] <;> rfl

theorem State.judge_hostPart (s : State) : s.judge.hostPart = s.hostPart := by
  obtain ⟨l, ⟨verdict, -⟩ | ⟨verdict, -⟩⟩ := State.judge_cases s <;> rw [verdict] <;> rfl

theorem State.judge_source (s : State) : s.judge.source = s.source := by
  obtain ⟨l, ⟨verdict, -⟩ | ⟨verdict, -⟩⟩ := State.judge_cases s <;> rw [verdict] <;> rfl

/-- Only the verdict Good raises the publish request, and it publishes the buffer's Record (41_frame_synchronizer R122). -/
theorem State.judge_raises (idle : s.pReq = false) (raised : s.judge.pReq = true) :
    validate s.buf = .good ∧ s.judge.pData = decodePayload (payload s.buf) := by
  obtain ⟨l, ⟨verdict, -⟩ | ⟨verdict, good⟩⟩ := State.judge_cases s <;> rw [verdict] at raised ⊢
  · exact absurd raised (ne_true_of_eq_false idle)
  · exact ⟨good, rfl⟩

/-! ## Each element has one owner -/

/-- Outside RESET, STORE's elements change only in STORE's turns. -/
theorem Moves.storePart_eq (move : Moves s turn t) (notRst : turn ≠ .rst) (notStoreP : turn ≠ .storeP)
    (notStoreC : turn ≠ .storeC) : t.storePart = s.storePart := by
  cases move with
  | servesP | clearsP => exact absurd rfl notStoreP
  | servesC | clearsC => exact absurd rfl notStoreC
  | resets => exact absurd rfl notRst
  | judges => exact State.judge_storePart _
  | _ => rfl

/-- Outside RESET, HOST's elements change only in HOST's turns. -/
theorem Moves.hostPart_eq (move : Moves s turn t) (notRst : turn ≠ .rst) (notIssue : turn ≠ .hostIssue)
    (notReturn : turn ≠ .hostReturn) : t.hostPart = s.hostPart := by
  cases move with
  | starts | replies | stops | stopsAtOnce | requests => exact absurd rfl notIssue
  | stopReturns | takeReturns => exact absurd rfl notReturn
  | resets => exact absurd rfl notRst
  | judges => exact State.judge_hostPart _
  | _ => rfl

/-- Outside RESET and SYNC's turns only START in Idle touches SYNC's elements, and of them only those that place the loop
(44_lifecycle_control R171). -/
theorem Moves.syncPart_cases (move : Moves s turn t) (notRst : turn ≠ .rst) (notSync : turn ≠ .sync) :
    t.syncPart = s.syncPart ∨ (turn = .hostIssue ∧ s.life = .idle ∧ t.syncPart.2 = s.syncPart.2) := by
  cases move with
  | firstMark | skips | secondMark | length | abandons | stores | judges | dies | arms | ends | lowersP =>
    exact absurd rfl notSync
  | resets => exact absurd rfl notRst
  | starts free mode => exact .inr ⟨rfl, mode, rfl⟩
  | _ => exact .inl rfl

/-- Settles O46: one clause per owner; HOST's two clauses about SYNC's elements are START in Idle and everything else. -/
theorem onlyTheOwnerWrites : Obligations.OnlyTheOwnerWrites := by
  intro s t next notRst
  have move : Moves s.advance s.nextTurn t := step_moves next
  have notSyncs (issue : s.nextTurn = .hostIssue) : s.nextTurn ≠ .sync := by simp [issue]
  refine ⟨move.storePart_eq notRst, move.hostPart_eq notRst, ?loop, ?issueOutsideIdle, ?issue⟩
  case loop =>
    intro notSync notIssue
    obtain same | ⟨issue, -, -⟩ := move.syncPart_cases notRst notSync
    · exact same
    · exact absurd issue notIssue
  case issueOutsideIdle =>
    intro issue notIdle
    obtain same | ⟨-, idle, -⟩ := move.syncPart_cases notRst (notSyncs issue)
    · exact same
    · exact absurd idle notIdle
  case issue =>
    intro issue
    obtain same | ⟨-, -, same⟩ := move.syncPart_cases notRst (notSyncs issue)
    · exact congrArg Prod.snd same
    · exact same

/-! ## The source's events -/

/-- What is consumed is the event at the head. -/
theorem State.source_eq_cons_consume {w : BitVec 10} {rest : List (BitVec 10)} (head : s.source = w :: rest) :
    s.source = w :: s.consume.source := by
  simp [head]

/-- What a move does to the source: nothing, unless SYNC accepts the head or SRC delivers. -/
theorem Moves.source_cases (move : Moves s turn t) :
    t.source = s.source ∨ (turn = .sync ∧ s.InReady ∧ ∃ w, s.source = w :: t.source) ∨
      (turn = .src ∧ ∃ ws, t.source = s.source ++ ws) := by
  cases move with
  | delivers bytes => exact .inr (.inr ⟨rfl, bytes.map byteWord, rfl⟩)
  | firstMark ready rest head | secondMark ready rest head | length ready rest head =>
    exact .inr (.inl ⟨rfl, ready, _, State.source_eq_cons_consume head⟩)
  | skips ready w rest head | abandons ready w rest head | stores ready data rest head | dies ready w rest head =>
    exact .inr (.inl ⟨rfl, ready, _, State.source_eq_cons_consume head⟩)
  | judges ready data rest head =>
    refine .inr (.inl ⟨rfl, ready, srcWord 0 data, ?_⟩)
    rw [State.judge_source]
    exact State.source_eq_cons_consume head
  | _ => exact .inl rfl

/-- Settles O52, by the three things a move can do to the source. -/
theorem sourceEventsAreConsumedInOrder : Obligations.SourceEventsAreConsumedInOrder := fun _ _ next =>
  (step_moves next).source_cases

/-! ## What may be published -/

/-- A move that raises the publish request judges a frame, and its verdict is Good: the other moves leave the request or
lower it. -/
theorem Moves.raises_validated (move : Moves s turn t) (idle : s.pReq = false) (raised : t.pReq = true) :
    turn = .sync ∧ s.InReady ∧ s.syncState = .readBody ∧ s.cnt = 18 ∧
      ∃ w, s.source.head? = some w ∧ srcKind w = 0 ∧
        validate (s.buf.set 18 (srcData w)) = .good ∧ t.pData = decodePayload (payload (s.buf.set 18 (srcData w))) := by
  cases move with
  | judges ready data rest head phase full =>
    have validated := State.judge_raises (s := { s.consume with buf := s.buf.set 18 data }) idle raised
    refine ⟨rfl, ready, phase, full, srcWord 0 data, by simp [head], srcKind_srcWord 0 data, ?_⟩
    rw [srcData_srcWord]
    exact validated
  | lowersP | resets => exact absurd raised Bool.false_ne_true
  | _ => exact absurd raised (ne_true_of_eq_false idle)

/-- Settles O53: a step is one of the moves, and only a validated frame raises the request. -/
theorem onlyValidatedFramesArePublished : Obligations.OnlyValidatedFramesArePublished := fun _ _ next =>
  (step_moves next).raises_validated

end Sys2Proof.Machine
end

section
/-! PROOFS. The Record and the frame as bits (30_encoding R70, R73): the packed vector and the wire unit, each taken apart into
its fields and rebuilt from them, and the payload as bytes of the fields and as one little-endian number; then O36 and O37. -/

namespace Sys2Proof.Machine

open BitVec (extractLsb'_append_eq_of_le extractLsb'_append_eq_of_add_le extractLsb'_append_extractLsb'_eq_extractLsb'
  extractLsb'_eq_self)

/-! ## The bytes of a field -/

@[simp] theorem le16_fieldByte (v : BitVec 16) : le16 (fieldByte v 0) (fieldByte v 1) = v := by
  simp (disch := decide) only [le16, fieldByte, extractLsb'_append_extractLsb'_eq_extractLsb']
  exact extractLsb'_eq_self

@[simp] theorem le64_fieldByte (v : BitVec 64) :
    le64 (fieldByte v 0) (fieldByte v 1) (fieldByte v 2) (fieldByte v 3) (fieldByte v 4) (fieldByte v 5) (fieldByte v 6)
      (fieldByte v 7) = v := by
  simp (disch := decide) only [le64, fieldByte, extractLsb'_append_extractLsb'_eq_extractLsb']
  exact extractLsb'_eq_self

/-- A Record is read back from its payload bytes (42_payload_codec R143). -/
@[simp] theorem decodePayload_encodePayload (r : Record) : decodePayload (encodePayload r) = r := by
  simp [decodePayload, encodePayload]

/-! ## The packed Record -/

@[simp] theorem unpackRecord_packRecord (r : Record) : unpackRecord (packRecord r) = r := by
  simp (disch := decide) only [unpackRecord, packRecord, extractLsb'_append_eq_of_le, extractLsb'_append_eq_of_add_le,
    extractLsb'_eq_self, Nat.reduceSub]

/-- The five fields stand side by side and fill the vector. -/
@[simp] theorem packRecord_unpackRecord (v : BitVec 128) : packRecord (unpackRecord v) = v := by
  simp (disch := decide) only [unpackRecord, packRecord, extractLsb'_append_extractLsb'_eq_extractLsb']
  exact extractLsb'_eq_self

/-- The vector above is the more significant part. -/
theorem toNat_append_eq {n m : Nat} (x : BitVec n) (y : BitVec m) : (x ++ y).toNat = y.toNat + 2 ^ m * x.toNat := by
  rw [BitVec.toNat_append, ← Nat.shiftLeft_add_eq_or_of_lt y.isLt, Nat.shiftLeft_eq, Nat.mul_comm, Nat.add_comm]

theorem leNat_cons_cons (a b : Byte) (bytes : List Byte) :
    leNat (a :: b :: bytes) = (le16 a b).toNat + 2 ^ 16 * leNat bytes := by
  simp only [leNat, le16, toNat_append_eq]
  omega

theorem leNat_eight (b0 b1 b2 b3 b4 b5 b6 b7 : Byte) :
    leNat [b0, b1, b2, b3, b4, b5, b6, b7] = (le64 b0 b1 b2 b3 b4 b5 b6 b7).toNat := by
  simp only [leNat, le64, toNat_append_eq]
  omega

theorem toList_sixteen {α : Type} (p : Vector α 16) :
    p.toList = [p[0], p[1], p[2], p[3], p[4], p[5], p[6], p[7], p[8], p[9], p[10], p[11], p[12], p[13], p[14], p[15]] :=
  (congrArg Vector.toList Vector.ofFn_getElem.symm).trans Vector.toList_ofFn

/-- The packed decode of a payload is its little-endian reading: field by field, the first byte the least significant. -/
theorem toNat_packRecord_decodePayload (p : Vector Byte 16) : (packRecord (decodePayload p)).toNat = leNat p.toList := by
  rw [toList_sixteen, leNat_cons_cons, leNat_cons_cons, leNat_cons_cons, leNat_cons_cons, leNat_eight]
  simp only [packRecord, decodePayload, toNat_append_eq]

/-- Settles O36: the places of the fields are what `unpackRecord` reads. -/
theorem packedRecordIsThePayload : Obligations.PackedRecordIsThePayload :=
  ⟨fun r => Record.mk.inj (unpackRecord_packRecord r), unpackRecord_packRecord, packRecord_unpackRecord,
    toNat_packRecord_decodePayload⟩

/-! ## The wire unit -/

@[simp] theorem wireRecord_frameUnit (r : Record) (c : Byte) : wireRecord (frameUnit r c) = r := by
  simp (disch := decide) only [wireRecord, frameUnit, extractLsb'_append_eq_of_le, extractLsb'_append_eq_of_add_le,
    extractLsb'_eq_self, Nat.reduceSub]

@[simp] theorem wireByte_frameUnit_checksum (r : Record) (c : Byte) : wireByte (frameUnit r c) 19 = c := by
  simp (disch := decide) only [wireByte, frameUnit, extractLsb'_append_eq_of_le, extractLsb'_append_eq_of_add_le,
    extractLsb'_eq_self, Nat.reduceSub, Nat.reduceMul]

/-- A wire unit is a frame exactly when the five constant bytes stand in it (30_encoding R70, R71). -/
theorem isFrame_iff (u : BitVec 176) : isFrame u = true ↔
    wireByte u 0 = 0xAA ∧ wireByte u 1 = 0x55 ∧ wireByte u 2 = 0x11 ∧ wireByte u 20 = 0x55 ∧ wireByte u 21 = 0xAA := by
  simp only [isFrame, Bool.and_eq_true, beq_iff_eq, and_assoc]

@[simp] theorem isFrame_frameUnit (r : Record) (c : Byte) : isFrame (frameUnit r c) = true := by
  rw [isFrame_iff]
  simp (disch := decide) only [wireByte, frameUnit, extractLsb'_append_eq_of_le, extractLsb'_append_eq_of_add_le,
    extractLsb'_eq_self, Nat.reduceSub, Nat.reduceMul]
  decide

/-- A frame is rebuilt from its Record and its checksum byte: no bit of it is dropped. -/
theorem frameUnit_wireRecord {u : BitVec 176} (frame : isFrame u = true) :
    frameUnit (wireRecord u) (wireByte u 19) = u := by
  obtain ⟨b0, b1, b2, b20, b21⟩ := (isFrame_iff u).mp frame
  calc frameUnit (wireRecord u) (wireByte u 19)
      = wireByte u 21 ++ wireByte u 20 ++ wireByte u 19 ++ (wireRecord u).timestamp ++ (wireRecord u).h ++ (wireRecord u).w ++
          (wireRecord u).y ++ (wireRecord u).x ++ wireByte u 2 ++ wireByte u 1 ++ wireByte u 0 := by
        rw [b0, b1, b2, b20, b21, frameUnit]
    _ = u := by
        simp (disch := decide) only [wireByte, wireRecord, extractLsb'_append_extractLsb'_eq_extractLsb']
        exact extractLsb'_eq_self

/-- Byte `j` of a field that begins at byte `k` of a wire unit is the unit's byte `k + j`. -/
theorem fieldByte_extractLsb' (u : BitVec 176) (k n : Nat) {j : Nat} (fits : 8 * j + 8 ≤ n) :
    fieldByte (u.extractLsb' (8 * k) n) j = wireByte u (k + j) := by
  apply BitVec.eq_of_getLsbD_eq
  intro i hi
  have inField : 8 * j + i < n := by omega
  simp [fieldByte, wireByte, hi, inField, Nat.mul_add, Nat.add_assoc]

/-- The 22 bytes of a wire unit: three, the payload of its Record, and three. -/
theorem wireBytes_eq (u : BitVec 176) : wireBytes u =
    [wireByte u 0, wireByte u 1, wireByte u 2] ++ (encodePayload (wireRecord u)).toList ++
      [wireByte u 19, wireByte u 20, wireByte u 21] := by
  simp (disch := decide) only [encodePayload, wireRecord, fieldByte_extractLsb' u 3 16, fieldByte_extractLsb' u 5 16,
    fieldByte_extractLsb' u 7 16, fieldByte_extractLsb' u 9 16, fieldByte_extractLsb' u 11 64]
  rfl

/-- The wire unit of a frame carries the bytes that a sender writes. -/
theorem wireBytes_frameUnit (r : Record) (c : Byte) : wireBytes (frameUnit r c) = frameBytes r c := by
  obtain ⟨b0, b1, b2, b20, b21⟩ := (isFrame_iff _).mp (isFrame_frameUnit r c)
  rw [wireBytes_eq, b0, b1, b2, b20, b21, wireRecord_frameUnit, wireByte_frameUnit_checksum, frameBytes]

/-- Settles O37: the payload on the wire is `encodePayload r`. -/
theorem frameArrivesAsTwentyTwoBytes : Obligations.FrameArrivesAsTwentyTwoBytes := fun _ r c =>
  ⟨⟨encodePayload r, decodePayload_encodePayload r, rfl⟩, wireBytes_frameUnit r c, rfl⟩

end Sys2Proof.Machine
end

section
/-! PROOFS. The decoder and the encoder are inverse (30_encoding R79, R80), both by way of the rows: `Row` joins the rows of the
four ports. A word decodes to `i` exactly where it stands for `i` in a row, and the rows are exactly the well-formed operations
of the mode, each with its encoding; then O57, O58 and O60. -/

namespace Sys2Proof.Machine

variable {m : Mode} {p : PortWord} {i : Instr}

/-! ## A row's word selects it -/

theorem decode_byte (m : Mode) (d : Byte) : decode m (.src (srcWord 0 d)) = decodeByte m d := by
  simp [decode, decodeSrc]

theorem decode_timeout (m : Mode) (d : Byte) : decode m (.src (srcWord 1 d)) = .ok (decodeTimeout m d) := by
  simp [decode, decodeSrc]

theorem SrcRow.decode_eq {w : BitVec 10} (row : SrcRow m w i) : decode m (.src w) = .ok i := by
  cases row with
  | sfMark0 p => simp only [decode_byte, decodeByte, p, if_true]
  | sfSkip d p o => simp only [decode_byte, decodeByte, p, if_neg o]
  | sfIdle d p => rw [decode_timeout, decodeTimeout, p]
  | ssMark1 p => simp only [decode_byte, decodeByte, p, if_true]
  | ssDrop d p o => simp only [decode_byte, decodeByte, p, if_neg o]
  | ssTmo d p => rw [decode_timeout, decodeTimeout, p]
  | rlLen p => simp only [decode_byte, decodeByte, p, if_true]
  | rlBadlen d p o => simp only [decode_byte, decodeByte, p, if_neg o]
  | rlTmo d p => rw [decode_timeout, decodeTimeout, p]
  | rbStore d p c => simp only [decode_byte, decodeByte, p, if_pos c]
  | rbLast d p c => rw [decode_byte]; simp [decodeByte, p, c]
  | rbTmo d p => rw [decode_timeout, decodeTimeout, p]
  | xFatal d => simp [decode, decodeSrc]
  | srcRsvd d => simp [decode, decodeSrc]

theorem HostRow.decode_eq {w : BitVec 3} (row : HostRow m w i) : decode m (.host w) = .ok i := by
  cases row with
  | startOk l => simp [decode, decodeHost, l]
  | startFail l => simp [decode, decodeHost, l]
  | startRej a l => obtain l | l := l <;> simp [decode, decodeHost, l]
  | stop a l => simp [decode, decodeHost, l]
  | stopIdle a l => obtain l | l := l <;> simp [decode, decodeHost, l]
  | take a l => simp [decode, decodeHost, l]
  | stat a l => simp [decode, decodeHost, l]

/-! ## The rows of the four ports -/

/-- The rows that have a word (30_encoding R80), each with its word and its condition on the mode. -/
inductive Row (m : Mode) : PortWord → Instr → Prop where
  | src {w : BitVec 10} {i : Instr} (row : SrcRow m w i) : Row m (.src w) i
  | host {w : BitVec 3} {i : Instr} (row : HostRow m w i) : Row m (.host w) i
  | rst : Row m (.rst 1) .reset
  | wire (r : Record) (checksum : Byte) : Row m (.wire (frameUnit r checksum)) (.frame r checksum)

theorem Row.decode_eq (row : Row m p i) : decode m p = .ok i := by
  cases row with
  | src row => exact row.decode_eq
  | host row => exact row.decode_eq
  | rst => rfl
  | wire r c => simp [decode, decodeWire]

theorem row_of_decode (dec : decode m p = .ok i) : Row m p i := by
  cases p with
  | src w => exact .src (decodeSrc_row dec)
  | host w => exact .host (decodeHost_row dec)
  | rst w =>
    obtain rfl | rfl := arg_cases w
    · cases dec
    · cases dec; exact .rst
  | wire u =>
    by_cases frame : isFrame u = true
    · simp only [decode, decodeWire, frame, if_true, Except.ok.injEq] at dec
      subst dec
      have row := Row.wire (m := m) (wireRecord u) (wireByte u 19)
      rwa [frameUnit_wireRecord frame] at row
    · simp [decode, decodeWire, frame] at dec

/-! ## The rows are what the encoder writes -/

/-- `p` is the word of the operation, whose operands and whose mode meet the conditions of its row. -/
structure EncodesIn (m : Mode) (p : PortWord) (i : Instr) : Prop where
  wellFormed : i.wellFormed = true
  selected : i.selectedIn m = true
  word : encode i = some p

theorem SrcRow.encodesIn {w : BitVec 10} (row : SrcRow m w i) : EncodesIn m (.src w) i := by
  cases row with
  | sfMark0 p => exact ⟨rfl, beq_iff_eq.mpr p, rfl⟩
  | sfSkip d p o => exact ⟨bne_iff_ne.mpr o, beq_iff_eq.mpr p, rfl⟩
  | sfIdle d p => exact ⟨rfl, beq_iff_eq.mpr p, rfl⟩
  | ssMark1 p => exact ⟨rfl, beq_iff_eq.mpr p, rfl⟩
  | ssDrop d p o => exact ⟨bne_iff_ne.mpr o, beq_iff_eq.mpr p, rfl⟩
  | ssTmo d p => exact ⟨rfl, beq_iff_eq.mpr p, rfl⟩
  | rlLen p => exact ⟨rfl, beq_iff_eq.mpr p, rfl⟩
  | rlBadlen d p o => exact ⟨bne_iff_ne.mpr o, beq_iff_eq.mpr p, rfl⟩
  | rlTmo d p => exact ⟨rfl, beq_iff_eq.mpr p, rfl⟩
  | rbStore d p c => exact ⟨rfl, Bool.and_eq_true_iff.mpr ⟨beq_iff_eq.mpr p, decide_eq_true c⟩, rfl⟩
  | rbLast d p c => exact ⟨rfl, Bool.and_eq_true_iff.mpr ⟨beq_iff_eq.mpr p, beq_iff_eq.mpr c⟩, rfl⟩
  | rbTmo d p => exact ⟨rfl, beq_iff_eq.mpr p, rfl⟩
  | xFatal d => exact ⟨rfl, rfl, rfl⟩
  | srcRsvd d => exact ⟨rfl, rfl, rfl⟩

theorem HostRow.encodesIn {w : BitVec 3} (row : HostRow m w i) : EncodesIn m (.host w) i := by
  cases row with
  | startOk l => exact ⟨rfl, by simp [Instr.selectedIn, l], rfl⟩
  | startFail l => exact ⟨rfl, by simp [Instr.selectedIn, l], rfl⟩
  | startRej a l => exact ⟨rfl, by simp [Instr.selectedIn, l], rfl⟩
  | stop a l => exact ⟨rfl, by simp [Instr.selectedIn, l], rfl⟩
  | stopIdle a l => exact ⟨rfl, by simp [Instr.selectedIn, l], rfl⟩
  | take a l => exact ⟨rfl, by simp [Instr.selectedIn, l], rfl⟩
  | stat a l => exact ⟨rfl, by simp [Instr.selectedIn, l], rfl⟩

theorem Row.encodesIn (row : Row m p i) : EncodesIn m p i := by
  cases row with
  | src row => exact row.encodesIn
  | host row => exact row.encodesIn
  | rst => exact ⟨rfl, rfl, rfl⟩
  | wire r c => exact ⟨rfl, rfl, rfl⟩

/-- The conditions on operands and mode under which the encoder writes a word are those of the decoder's row. -/
theorem EncodesIn.row (enc : EncodesIn m p i) : Row m p i := by
  obtain ⟨wf, sel, word⟩ := enc
  cases i with
  | sfMark0 => cases word; exact .src (.sfMark0 (eq_of_beq sel))
  | sfSkip d => cases word; exact .src (.sfSkip d (eq_of_beq sel) (bne_iff_ne.mp wf))
  | sfIdle d => cases word; exact .src (.sfIdle d (eq_of_beq sel))
  | ssMark1 => cases word; exact .src (.ssMark1 (eq_of_beq sel))
  | ssDrop d => cases word; exact .src (.ssDrop d (eq_of_beq sel) (bne_iff_ne.mp wf))
  | ssTmo d => cases word; exact .src (.ssTmo d (eq_of_beq sel))
  | rlLen => cases word; exact .src (.rlLen (eq_of_beq sel))
  | rlBadlen d => cases word; exact .src (.rlBadlen d (eq_of_beq sel) (bne_iff_ne.mp wf))
  | rlTmo d => cases word; exact .src (.rlTmo d (eq_of_beq sel))
  | rbStore d =>
    cases word
    obtain ⟨phase, room⟩ := Bool.and_eq_true_iff.mp sel
    exact .src (.rbStore d (eq_of_beq phase) (of_decide_eq_true room))
  | rbLast d =>
    cases word
    obtain ⟨phase, full⟩ := Bool.and_eq_true_iff.mp sel
    exact .src (.rbLast d (eq_of_beq phase) (eq_of_beq full))
  | rbTmo d => cases word; exact .src (.rbTmo d (eq_of_beq sel))
  | xFatal d => cases word; exact .src (.xFatal d)
  | srcRsvd d => cases word; exact .src (.srcRsvd d)
  | startOk => cases word; exact .host (.startOk (eq_of_beq sel))
  | startFail => cases word; exact .host (.startFail (eq_of_beq sel))
  | startRej a => cases word; exact .host (.startRej a (by simpa [Instr.selectedIn] using sel))
  | stop a => cases word; exact .host (.stop a (eq_of_beq sel))
  | stopIdle a => cases word; exact .host (.stopIdle a (by simpa [Instr.selectedIn] using sel))
  | take a => cases word; exact .host (.take a (bne_iff_ne.mp sel))
  | stat a => cases word; exact .host (.stat a (bne_iff_ne.mp sel))
  | reset => cases word; exact .rst
  | frame r c => cases word; exact .wire r c
  | check | stopRet | pRaise r | sServeP | pLower | sClearP | cRaise | sServeC | cLower | sClearC => cases word
  | crcInit | crcStep d | decode | publish r | takeAbs => cases word

/-- Settles O57: an operation with a word stands in its row, and the row's word selects it. -/
theorem decodeOfEncodeIsTheOperation : Obligations.DecodeOfEncodeIsTheOperation := fun _ _ _ wf sel word =>
  (EncodesIn.row ⟨wf, sel, word⟩).decode_eq

/-- Settles O58: a word that decodes stands in a row, and the row is what the encoder writes. -/
theorem encodeOfDecodeIsTheWord : Obligations.EncodeOfDecodeIsTheWord := fun _ _ _ dec =>
  have enc := (row_of_decode dec).encodesIn
  ⟨enc.wellFormed, enc.selected, enc.word⟩

/-- Settles O60: each word is the word of a row. -/
theorem sampleWordsDecode : Obligations.SampleWordsDecode :=
  ⟨SrcRow.decode_eq (.sfMark0 rfl), SrcRow.decode_eq (.ssDrop 0xAA rfl (by decide)), SrcRow.decode_eq (.rlLen rfl),
    SrcRow.decode_eq (.rbLast 0xAA rfl rfl), SrcRow.decode_eq (.xFatal 0), HostRow.decode_eq (.startOk rfl),
    HostRow.decode_eq (.take 1 nofun), Row.rst.decode_eq⟩

end Sys2Proof.Machine
end

section
/-! PROOFS. The internal steps of the sequential schedule run to completion (30_encoding R84). `internalLeft` counts the internal
steps that can still follow: three for each handshake, one CHECK and one STOP_RET, the eight of the rule. Each internal step
takes at least one from the count; then O56. -/

namespace Sys2Proof.Machine

variable {s t : State} {turn : Turn} {i : Instr}

/-! ## How many internal steps are left -/

/-- How many steps of a handshake are left: serve, lower, clear (43_latest_value_store R155 to R161). -/
def handshakeLeft : (req ack : Bool) → Nat
  | true, false => 3
  | true, true => 2
  | false, true => 1
  | false, false => 0

theorem handshakeLeft_le (req ack : Bool) : handshakeLeft req ack ≤ 3 := by
  revert req ack; decide

/-- CHECK is to come, at once or after the publish in flight (44_lifecycle_control R177). -/
def State.checkLeft (s : State) : Nat := if s.loopAlive = true ∧ s.syncState = .seekFirst ∧ s.armed = false then 1 else 0

/-- STOP_RET is to come, if the loop ends (44_lifecycle_control R176). -/
def State.stopLeft (s : State) : Nat := if s.life = .stopping then 1 else 0

/-- How many internal steps can still follow one another. -/
def State.internalLeft (s : State) : Nat :=
  handshakeLeft s.pReq s.pAck + handshakeLeft s.cReq s.cAck + s.checkLeft + s.stopLeft

theorem State.internalLeft_le (s : State) : s.internalLeft ≤ 8 := by
  have publish := handshakeLeft_le s.pReq s.pAck
  have take := handshakeLeft_le s.cReq s.cAck
  have check : s.checkLeft ≤ 1 := by unfold State.checkLeft; split <;> omega
  have stop : s.stopLeft ≤ 1 := by unfold State.stopLeft; split <;> omega
  unfold State.internalLeft
  omega

/-! ## An internal step leaves fewer -/

/-- An agent's turn runs the operation it selects. -/
theorem State.agentStep_of_select (sel : s.select turn = .run i) : s.agentStep turn = exec i s := by
  rw [State.agentStep, sel, State.perform]

/-- The turn reaches a next state, with fewer internal steps left. -/
def State.Progresses (s : State) (turn : Turn) : Prop := ∃ t, s.agentStep turn = .next t ∧ t.internalLeft < s.internalLeft

/-- An operation whose guard holds progresses if its effect leaves fewer internal steps. -/
theorem State.Progresses.of_try {guard : Prop} [Decidable guard] {next : State} (sel : s.select turn = .run i)
    (op : exec i s = s.tryStep guard next) (ready : guard) (less : next.internalLeft < s.internalLeft) :
    s.Progresses turn :=
  ⟨next, by rw [State.agentStep_of_select sel, op, State.tryStep_of ready], less⟩

/-- A step of the publish handshake that leaves all else that is counted. -/
theorem State.internalLeft_lt_of_publish
    (frame : t.cReq = s.cReq ∧ t.cAck = s.cAck ∧ t.checkLeft = s.checkLeft ∧ t.stopLeft = s.stopLeft)
    (less : handshakeLeft t.pReq t.pAck < handshakeLeft s.pReq s.pAck) : t.internalLeft < s.internalLeft := by
  obtain ⟨req, ack, check, stop⟩ := frame
  unfold State.internalLeft
  rw [req, ack, check, stop]
  omega

/-- A step of the take handshake that leaves all else that is counted. -/
theorem State.internalLeft_lt_of_take
    (frame : t.pReq = s.pReq ∧ t.pAck = s.pAck ∧ t.checkLeft = s.checkLeft ∧ t.stopLeft = s.stopLeft)
    (less : handshakeLeft t.cReq t.cAck < handshakeLeft s.cReq s.cAck) : t.internalLeft < s.internalLeft := by
  obtain ⟨req, ack, check, stop⟩ := frame
  unfold State.internalLeft
  rw [req, ack, check, stop]
  omega

theorem State.LowerPReady.progresses (h : s.LowerPReady) : s.Progresses .sync :=
  .of_try (State.selectSync_of_lowerPReady h) rfl h
    (State.internalLeft_lt_of_publish ⟨rfl, rfl, rfl, rfl⟩ (by simp [handshakeLeft, h]))

/-- CHECK arms a read or ends the loop: either way no CHECK is left. -/
theorem State.CheckReady.progresses (h : s.CheckReady) : s.Progresses .sync :=
  .of_try (State.selectSync_of_checkReady h) rfl h (by
    obtain ⟨alive, phase, unarmed, _, _⟩ := h
    cases run : s.runFlag <;> simp [State.internalLeft, State.checkLeft, State.stopLeft, alive, phase, unarmed])

theorem State.ServePReady.progresses (h : s.ServePReady) : s.Progresses .storeP :=
  .of_try (State.selectStoreP_of_servePReady h) rfl h
    (State.internalLeft_lt_of_publish ⟨rfl, rfl, rfl, rfl⟩ (by simp [handshakeLeft, h]))

theorem State.ClearPReady.progresses (h : s.ClearPReady) : s.Progresses .storeP :=
  .of_try (State.selectStoreP_of_clearPReady h) rfl h
    (State.internalLeft_lt_of_publish ⟨rfl, rfl, rfl, rfl⟩ (by simp [handshakeLeft, h]))

theorem State.ServeCReady.progresses (h : s.ServeCReady) : s.Progresses .storeC :=
  .of_try (State.selectStoreC_of_serveCReady h) rfl h
    (State.internalLeft_lt_of_take ⟨rfl, rfl, rfl, rfl⟩ (by simp [handshakeLeft, h]))

theorem State.ClearCReady.progresses (h : s.ClearCReady) : s.Progresses .storeC :=
  .of_try (State.selectStoreC_of_clearCReady h) rfl h
    (State.internalLeft_lt_of_take ⟨rfl, rfl, rfl, rfl⟩ (by simp [handshakeLeft, h]))

theorem State.StopRetReady.progresses (h : s.StopRetReady) : s.Progresses .hostReturn :=
  .of_try (State.selectHostReturn_of_stopRetReady h) rfl h (by
    obtain ⟨life, _⟩ := h
    simp [State.internalLeft, State.checkLeft, State.stopLeft, life])

theorem State.LowerCReady.progresses (noStop : ¬s.StopRetReady) (h : s.LowerCReady) : s.Progresses .hostReturn :=
  .of_try (State.selectHostReturn_of_lowerCReady noStop h) rfl h
    (State.internalLeft_lt_of_take ⟨rfl, rfl, rfl, rfl⟩ (by simp [handshakeLeft, h]))

/-- The agent that the schedule takes next has an enabled internal step, which progresses. -/
theorem State.progresses_of_internalTurn (h : s.internalTurn = some turn) : s.Progresses turn := by
  unfold State.internalTurn at h
  split at h
  · next ready =>
    cases h
    exact ready.elim State.LowerPReady.progresses State.CheckReady.progresses
  · split at h
    · next ready =>
      cases h
      exact ready.elim State.ServePReady.progresses State.ClearPReady.progresses
    · split at h
      · next ready =>
        cases h
        exact ready.elim State.ServeCReady.progresses State.ClearCReady.progresses
      · split at h
        · next ready =>
          cases h
          by_cases stop : s.StopRetReady
          · exact stop.progresses
          · exact State.LowerCReady.progresses stop (ready.resolve_left stop)
        · cases h

theorem State.internalTurn_eq_none (noneLeft : s.internalLeft = 0) : s.internalTurn = none := by
  cases next : s.internalTurn with
  | none => rfl
  | some turn =>
    obtain ⟨_, _, less⟩ := State.progresses_of_internalTurn next
    omega

/-! ## The schedule -/

theorem settle_done (idle : s.internalTurn = none) (n : Nat) (outs : List Outputs) :
    settle n (s, outs) = .next (s, outs ++ []) := by
  cases n with
  | zero => simp only [settle, List.append_nil]
  | succ n => simp only [settle, idle, List.append_nil]

theorem settle_succ (n : Nat) (outs : List Outputs) (next : s.internalTurn = some turn) (run : s.agentStep turn = .next t) :
    settle (n + 1) (s, outs) = settle n (t, outs ++ [t.out]) := by
  simp only [settle, next, run]

/-- With as many steps as are left, the schedule ends where no internal step is enabled. -/
theorem settle_completes (n : Nat) (s : State) (outs : List Outputs) (enough : s.internalLeft ≤ n) :
    ∃ t more, settle n (s, outs) = .next (t, outs ++ more) ∧ t.internalTurn = none := by
  induction n generalizing s outs with
  | zero =>
    have idle := State.internalTurn_eq_none (Nat.le_zero.mp enough)
    exact ⟨s, [], settle_done idle 0 outs, idle⟩
  | succ n ih =>
    cases next : s.internalTurn with
    | none => exact ⟨s, [], settle_done next (n + 1) outs, next⟩
    | some turn =>
      obtain ⟨t, run, less⟩ := State.progresses_of_internalTurn next
      obtain ⟨u, more, ends, idle⟩ := ih t (outs ++ [t.out]) (by omega)
      exact ⟨u, t.out :: more, by rw [settle_succ n outs next run, ends, List.append_assoc, List.singleton_append], idle⟩

/-- Settles O56: eight steps are as many as are left in any state. -/
theorem internalStepsRunToCompletion : Obligations.InternalStepsRunToCompletion := fun s outs =>
  settle_completes 8 s outs s.internalLeft_le

end Sys2Proof.Machine
end

section
/-! PROOFS. The Checksum Engine (40_checksum_engine R100 to R102, R107): first what its two micro-operations do to a state, then
the checksum loop over appended bytes and, with an injective table, the loop's injectivity, which carries one changed byte to the
result. -/

namespace Sys2Proof.Machine

variable {table : Byte → Byte}

/-! ## The micro-operations -/

theorem exec_crcInit (s : State) : exec .crcInit s = .next { s with crcAcc := 0x00, out := {} } := rfl

theorem exec_crcStep (s : State) (b : Byte) :
    exec (.crcStep b) s = .next { s with crcAcc := crcStepWith Config.crcTable s.crcAcc b, out := {} } := rfl

/-- Settles O30: each micro-operation by its own equation. -/
theorem checksumMicroOperationsRun : Obligations.ChecksumMicroOperationsRun := fun s b =>
  ⟨exec_crcInit s, exec_crcStep s b⟩

/-- However the steps are chained, if the chain runs CRC.STEP on each next state, it runs the loop of R100 on the accumulator. -/
theorem foldl_crcStep (chain : StepOutcome → Byte → StepOutcome) (runs : ∀ s b, chain (.next s) b = exec (.crcStep b) s)
    (s : State) (bytes : List Byte) (acc : Byte) :
    bytes.foldl chain (.next { s with crcAcc := acc, out := {} }) =
      .next { s with crcAcc := bytes.foldl (crcStepWith Config.crcTable) acc, out := {} } := by
  induction bytes generalizing acc with
  | nil => rfl
  | cons b bytes ih => rw [List.foldl_cons, List.foldl_cons, runs, exec_crcStep, ih]

/-- Settles O31: CRC.INIT starts the loop of `crc8` at 0x00, and the steps run it. -/
theorem checksumStepsComputeCrc8 : Obligations.ChecksumStepsComputeCrc8 := by
  intro s bytes
  rw [exec_crcInit]
  exact foldl_crcStep _ (fun _ _ => rfl) s bytes 0x00

/-! ## The checksum of appended bytes -/

@[simp] theorem crc8With_nil (table : Byte → Byte) : crc8With table [] = 0x00 := rfl

theorem crc8With_append (table : Byte → Byte) (u v : List Byte) :
    crc8With table (u ++ v) = v.foldl (crcStepWith table) (crc8With table u) := List.foldl_append

/-- From the cleared accumulator, a step looks the byte itself up. -/
theorem crcStepWith_zero (table : Byte → Byte) (b : Byte) : crcStepWith table 0x00 b = table b :=
  congrArg table BitVec.zero_xor

/-- Settles O32: the loop starts at 0x00, steps once for one byte, and goes on where the first part ended. -/
theorem checksumContinuesOverAppend : Obligations.ChecksumContinuesOverAppend := fun table =>
  ⟨crc8With_nil table, crcStepWith_zero table, crc8With_append table⟩

/-! ## One changed byte -/

/-- R107 (d): for a fixed accumulator, distinct bytes give distinct next accumulators. -/
theorem crcStepWith_injective_byte (inj : Function.Injective table) (acc : Byte) :
    Function.Injective (crcStepWith table acc) := fun _ _ same =>
  (BitVec.xor_right_inj acc).mp (inj same)

/-- R107 (d): for a fixed byte, distinct accumulators give distinct next accumulators. -/
theorem crcStepWith_injective_acc (inj : Function.Injective table) (b : Byte) :
    Function.Injective (crcStepWith table · b) := fun _ _ same =>
  (BitVec.xor_left_inj b).mp (inj same)

/-- The same bytes keep distinct accumulators distinct. -/
theorem foldl_crcStepWith_injective (inj : Function.Injective table) (bytes : List Byte) :
    Function.Injective (bytes.foldl (crcStepWith table)) := by
  induction bytes with
  | nil => exact Function.injective_id
  | cons b bytes ih => exact ih.comp (crcStepWith_injective_acc inj b)

/-- Settles O33: the equal bytes before lead to one accumulator, the changed byte parts it, and the equal bytes after keep the two
apart. -/
theorem permutationTableDetectsOneByte : Obligations.PermutationTableDetectsOneByte := by
  intro table u v a b perm differ same
  rw [crc8With_append, crc8With_append, List.foldl_cons, List.foldl_cons] at same
  have parted : crcStepWith table (crc8With table u) a = crcStepWith table (crc8With table u) b :=
    foldl_crcStepWith_injective perm.injective v same
  exact differ (crcStepWith_injective_byte perm.injective _ parted)

end Sys2Proof.Machine
end

section
/-! PROOFS. The Frame Synchronizer's operations (41_frame_synchronizer R110 to R129): first what each event does where SYNC is
ready for it, one equation per row, and what judging a frame finds; then the statements about single events. -/

namespace Sys2Proof.Machine

variable {s : State} {i : Instr}

/-! ## An accepted event, row by row -/

section

variable (ready : s.InReady)

include ready

theorem exec_sfMark0 (phase : s.syncState = .seekFirst) :
    exec .sfMark0 s = .next ({ s.consume with syncState := .seekSecond, armed := false }.emit .okQuiet) :=
  State.tryStep_of ⟨ready, phase⟩

theorem exec_sfSkip (phase : s.syncState = .seekFirst) (data : Byte) :
    exec (.sfSkip data) s = .next ({ s.consume with armed := false }.emit (.skip data)) :=
  State.tryStep_of ⟨ready, phase⟩

theorem exec_sfIdle (phase : s.syncState = .seekFirst) (ignored : Byte) :
    exec (.sfIdle ignored) s = .next ({ s.consume with armed := false }.emit .okQuiet) :=
  State.tryStep_of ⟨ready, phase⟩

theorem exec_ssMark1 (phase : s.syncState = .seekSecond) :
    exec .ssMark1 s = .next ({ s.consume with syncState := .readLength }.emit .okQuiet) :=
  State.tryStep_of ⟨ready, phase⟩

theorem exec_ssDrop (phase : s.syncState = .seekSecond) (data : Byte) :
    exec (.ssDrop data) s = .next (s.consume.resync (.eSecond data)) :=
  State.tryStep_of ⟨ready, phase⟩

theorem exec_ssTmo (phase : s.syncState = .seekSecond) (ignored : Byte) :
    exec (.ssTmo ignored) s = .next (s.consume.resync (.eShort .seekSecond 0)) :=
  State.tryStep_of ⟨ready, phase⟩

theorem exec_rlLen (phase : s.syncState = .readLength) :
    exec .rlLen s = .next ({ s.consume with syncState := .readBody, cnt := 0 }.emit .okQuiet) :=
  State.tryStep_of ⟨ready, phase⟩

theorem exec_rlBadlen (phase : s.syncState = .readLength) (data : Byte) :
    exec (.rlBadlen data) s = .next (s.consume.resync (.eLength data)) :=
  State.tryStep_of ⟨ready, phase⟩

theorem exec_rlTmo (phase : s.syncState = .readLength) (ignored : Byte) :
    exec (.rlTmo ignored) s = .next (s.consume.resync (.eShort .readLength 0)) :=
  State.tryStep_of ⟨ready, phase⟩

theorem exec_rbStore (phase : s.syncState = .readBody) (room : s.cnt < 18) (data : Byte) :
    exec (.rbStore data) s =
      .next ({ s.consume with buf := s.buf.setIfInBounds s.cnt.toNat data, cnt := s.cnt + 1 }.emit .okQuiet) :=
  State.tryStep_of ⟨ready, phase, room⟩

theorem exec_rbLast (phase : s.syncState = .readBody) (full : s.cnt = 18) (data : Byte) :
    exec (.rbLast data) s = .next { s.consume with buf := s.buf.set 18 data }.judge :=
  State.tryStep_of ⟨ready, phase, full⟩

theorem exec_rbTmo (phase : s.syncState = .readBody) (ignored : Byte) :
    exec (.rbTmo ignored) s = .next (s.consume.resync (.eShort .readBody s.cnt)) :=
  State.tryStep_of ⟨ready, phase⟩

theorem exec_xFatal (ignored : Byte) :
    exec (.xFatal ignored) s =
      .next ({ s.consume with fatal := true, loopAlive := false, armed := false }.resync (.eFatal s.syncState s.cnt)) :=
  State.tryStep_of ⟨ready, trivial⟩

end

/-! ## The statements about one event in one phase -/

/-- Settles O1: the three rows of SeekFirst, each with its equation; a skip leaves the phase, which is SeekFirst already. -/
theorem seekFirstEventsRun : Obligations.SeekFirstEventsRun := by
  intro s ready phase
  refine ⟨⟨SrcRow.decode_eq (.sfMark0 phase), exec_sfMark0 ready phase⟩, fun data other => ?skip, fun ignored => ?idle⟩
  case skip =>
    refine ⟨SrcRow.decode_eq (.sfSkip data phase other), ?_⟩
    rw [exec_sfSkip ready phase, ← phase]
    rfl
  case idle =>
    refine ⟨SrcRow.decode_eq (.sfIdle ignored phase), ?_⟩
    rw [exec_sfIdle ready phase, ← phase]
    rfl

/-- Settles O2: the three rows of SeekSecond, each with its equation. -/
theorem seekSecondEventsRun : Obligations.SeekSecondEventsRun := fun _ ready phase =>
  ⟨⟨SrcRow.decode_eq (.ssMark1 phase), exec_ssMark1 ready phase⟩,
    fun data other => ⟨SrcRow.decode_eq (.ssDrop data phase other), _, _, exec_ssDrop ready phase data⟩,
    fun ignored => ⟨SrcRow.decode_eq (.ssTmo ignored phase), _, _, exec_ssTmo ready phase ignored⟩⟩

/-- Settles O3: the three rows of ReadLength, each with its equation. -/
theorem readLengthEventsRun : Obligations.ReadLengthEventsRun := fun _ ready phase =>
  ⟨⟨SrcRow.decode_eq (.rlLen phase), exec_rlLen ready phase⟩,
    fun data other => ⟨SrcRow.decode_eq (.rlBadlen data phase other), _, _, exec_rlBadlen ready phase data⟩,
    fun ignored => ⟨SrcRow.decode_eq (.rlTmo ignored phase), _, _, exec_rlTmo ready phase ignored⟩⟩

/-- Settles O4: the row RB.STORE; the count is below 18, so the index is one of the buffer's and one more does not wrap. -/
theorem bodyByteIsStored : Obligations.BodyByteIsStored := by
  intro s data ready phase room
  have count : s.cnt.toNat < 18 := room
  refine ⟨SrcRow.decode_eq (.rbStore data phase room), s.buf.setIfInBounds s.cnt.toNat data,
    exec_rbStore ready phase room data, fun k => ?_, by bv_omega, by bv_omega⟩
  rw [Vector.getElem_setIfInBounds]
  simp only [eq_comm]

/-- Settles O7: the row RB.TMO. -/
theorem bodyTimeoutAborts : Obligations.BodyTimeoutAborts := fun _ ignored ready phase _ =>
  ⟨SrcRow.decode_eq (.rbTmo ignored phase), _, _, exec_rbTmo ready phase ignored⟩

/-- Settles O8: the row X.FATAL, which asks for no phase. -/
theorem fatalEventEndsTheLoop : Obligations.FatalEventEndsTheLoop := fun _ ignored ready =>
  ⟨SrcRow.decode_eq (.xFatal ignored), _, _, exec_xFatal ready ignored⟩

/-- Settles O9: the row SRC.RSVD has no meaning, and SYNC's turn runs it. -/
theorem reservedKindIsRefused : Obligations.ReservedKindIsRefused := fun _ data _ =>
  ⟨fun _ => SrcRow.decode_eq (.srcRsvd data), rfl, fun head turn noLower noCheck =>
    step_of_select turn (State.selectSync_of_word noLower noCheck head (SrcRow.decode_eq (.srcRsvd data)))⟩

/-! ## What judging a frame finds -/

theorem payload_toList (b : Vector Byte 19) : (payload b).toList =
    [b[0], b[1], b[2], b[3], b[4], b[5], b[6], b[7], b[8], b[9], b[10], b[11], b[12], b[13], b[14], b[15]] := by
  rw [toList_sixteen]
  simp only [payload, Vector.getElem_ofFn]

section

variable {table : Byte → Byte} {b : Vector Byte 19}

theorem validateWith_of_not_trailer (bad : ¬(b[17] = 0x55 ∧ b[18] = 0xAA)) : validateWith table b = .badTrailer :=
  if_pos (not_and_or.mp bad)

/-- With the trailer right the checksum decides. -/
theorem validateWith_of_trailer (trailer : b[17] = 0x55 ∧ b[18] = 0xAA) :
    validateWith table b =
      if crc8With table (payload b).toList ≠ b[16] then .badChecksum (crc8With table (payload b).toList) else .good :=
  if_neg fun bad => not_and_or.mpr bad trailer

end

/-- Settles O6: the trailer wrong; the trailer right and the checksum wrong; both right. -/
theorem trailerIsJudgedBeforeChecksum : Obligations.TrailerIsJudgedBeforeChecksum := by
  intro table b sum isSum
  rw [← payload_toList] at isSum
  by_cases trailer : b[17] = 0x55 ∧ b[18] = 0xAA
  · rw [validateWith_of_trailer trailer, ← isSum]
    by_cases same : sum = b[16]
    · simp [trailer, same]
    · simp [trailer, same, eq_comm]
  · rw [validateWith_of_not_trailer trailer]
    simp only [trailer, not_false_eq_true, reduceCtorEq, ← and_assoc, false_and, implies_true, and_self]

/-- Settles O5: RB.LAST judges the buffer with the 19th byte in it, and the verdict decides. -/
theorem lastByteIsJudged : Obligations.LastByteIsJudged := by
  rintro s data body ready phase full rfl
  refine ⟨SrcRow.decode_eq (.rbLast data phase full), ?_⟩
  rw [exec_rbLast ready phase full]
  cases verdict : validate (s.buf.set 18 data) with
  | badTrailer => exact ⟨_, _, _, congrArg _ (State.judge_badTrailer verdict)⟩
  | badChecksum computed => exact ⟨_, _, _, congrArg _ (State.judge_badChecksum verdict)⟩
  | good => exact ⟨_, _, _, congrArg _ (State.judge_good verdict)⟩

/-- Judging a frame emits a label. -/
theorem State.judge_evt (s : State) : s.judge.out.evt ≠ none := by
  obtain ⟨l, ⟨verdict, -⟩ | ⟨verdict, -⟩⟩ := State.judge_cases s <;> rw [verdict] <;> nofun

/-- Whatever the verdict, the machine is back at the top. -/
theorem State.judge_place (s : State) : s.judge.syncState = .seekFirst ∧ s.judge.cnt = 0 := by
  obtain ⟨l, ⟨verdict, -⟩ | ⟨verdict, -⟩⟩ := State.judge_cases s <;> rw [verdict] <;> exact ⟨rfl, rfl⟩

/-! ## When an event is accepted -/

/-- An operation whose row admits the state accepts exactly where SYNC is ready: then the event is consumed and labelled. -/
theorem State.accept_exactly {here : Prop} [Decidable here] {next : State} (op : exec i s = s.tryStep (s.InReady ∧ here) next)
    (admitted : here) (labels : next.source = s.source.tail ∧ next.out.evt ≠ none) :
    ∃ t, exec i s = .next t ∧ (s.InReady → t.source = s.source.tail ∧ t.out.evt ≠ none) ∧ (¬s.InReady → t = s.quiet) := by
  rw [op]
  by_cases ready : s.InReady
  · exact ⟨next, State.tryStep_of ⟨ready, admitted⟩, fun _ => labels, absurd ready⟩
  · exact ⟨s.quiet, State.tryStep_not fun guard => ready guard.1, fun r => absurd r ready, fun _ => rfl⟩

/-- Settles O10: for each row, what it admits and that its effect consumes nothing more and emits a label. -/
theorem eventIsAcceptedExactlyWhenReady : Obligations.EventIsAcceptedExactlyWhenReady := by
  intro s i accepts sel
  cases i with
  | sfMark0 | sfSkip | sfIdle | ssMark1 | ssDrop | ssTmo | rlLen | rlBadlen | rlTmo | rbTmo =>
    exact State.accept_exactly rfl (eq_of_beq sel) ⟨rfl, nofun⟩
  | rbStore data =>
    obtain ⟨phase, room⟩ := Bool.and_eq_true_iff.mp sel
    exact State.accept_exactly rfl ⟨eq_of_beq phase, of_decide_eq_true room⟩ ⟨rfl, nofun⟩
  | rbLast data =>
    obtain ⟨phase, full⟩ := Bool.and_eq_true_iff.mp sel
    exact State.accept_exactly rfl ⟨eq_of_beq phase, eq_of_beq full⟩ ⟨State.judge_source _, State.judge_evt _⟩
  | xFatal =>
    exact State.accept_exactly rfl trivial ⟨rfl, nofun⟩
  | _ => cases accepts

/-! ## The transition table -/

/-- Each phase's row of the table for a byte. -/
theorem transition_seekFirst (phase : s.syncState = .seekFirst) (d : Byte) : transition s.syncState s.cnt (srcWord 0 d) =
    if d = 0xAA then (.seekSecond, 0) else (.seekFirst, 0) := by
  simp only [transition, srcKind_srcWord, srcData_srcWord, if_true, phase]

theorem transition_seekSecond (phase : s.syncState = .seekSecond) (d : Byte) : transition s.syncState s.cnt (srcWord 0 d) =
    if d = 0x55 then (.readLength, 0) else (.seekFirst, 0) := by
  simp only [transition, srcKind_srcWord, srcData_srcWord, if_true, phase]

theorem transition_readLength (phase : s.syncState = .readLength) (d : Byte) : transition s.syncState s.cnt (srcWord 0 d) =
    if d = 0x11 then (.readBody, 0) else (.seekFirst, 0) := by
  simp only [transition, srcKind_srcWord, srcData_srcWord, if_true, phase]

theorem transition_readBody (phase : s.syncState = .readBody) (d : Byte) : transition s.syncState s.cnt (srcWord 0 d) =
    if s.cnt < 18 then (.readBody, s.cnt + 1) else (.seekFirst, 0) := by
  simp only [transition, srcKind_srcWord, if_true, phase]

/-- Every other event leads back to the top. -/
theorem transition_of_kind {kind : BitVec 2} (other : kind ≠ 0) (d : Byte) (phase : SyncState) (n : BitVec 5) :
    transition phase n (srcWord kind d) = (.seekFirst, 0) := if_neg (by rwa [srcKind_srcWord])

/-- Settles O11: row by row, where the operation leaves the machine and what the table has; outside the body the count is 0, by
the invariant. -/
theorem phaseMovesByTheTransitionTable : Obligations.PhaseMovesByTheTransitionTable := by
  intro s w i ready inv kind dec
  have zero {phase : SyncState} (here : s.syncState = phase) (outside : phase ≠ .readBody) : s.cnt = 0 :=
    inv.count_zero (here ▸ outside)
  have lands {t : State} {place : SyncState × BitVec 5} (run : exec i s = .next t)
      (table : transition s.syncState s.cnt w = place) (here : (t.syncState, t.cnt) = place) :
      ∃ t, exec i s = .next t ∧ (t.syncState, t.cnt) = transition s.syncState s.cnt w := ⟨t, run, here.trans table.symm⟩
  cases decodeSrc_row dec with
  | sfMark0 phase =>
    exact lands (exec_sfMark0 ready phase) ((transition_seekFirst phase _).trans (if_pos rfl)) (congrArg _ (zero phase nofun))
  | sfSkip d phase other =>
    exact lands (exec_sfSkip ready phase d) ((transition_seekFirst phase d).trans (if_neg other))
      (Prod.ext phase (zero phase nofun))
  | sfIdle d phase =>
    exact lands (exec_sfIdle ready phase d) (transition_of_kind (by decide) d _ _) (Prod.ext phase (zero phase nofun))
  | ssMark1 phase =>
    exact lands (exec_ssMark1 ready phase) ((transition_seekSecond phase _).trans (if_pos rfl)) (congrArg _ (zero phase nofun))
  | ssDrop d phase other =>
    exact lands (exec_ssDrop ready phase d) ((transition_seekSecond phase d).trans (if_neg other)) rfl
  | ssTmo d phase => exact lands (exec_ssTmo ready phase d) (transition_of_kind (by decide) d _ _) rfl
  | rlLen phase => exact lands (exec_rlLen ready phase) ((transition_readLength phase _).trans (if_pos rfl)) rfl
  | rlBadlen d phase other =>
    exact lands (exec_rlBadlen ready phase d) ((transition_readLength phase d).trans (if_neg other)) rfl
  | rlTmo d phase => exact lands (exec_rlTmo ready phase d) (transition_of_kind (by decide) d _ _) rfl
  | rbStore d phase room =>
    exact lands (exec_rbStore ready phase room d) ((transition_readBody phase d).trans (if_pos room))
      (congrArg (·, s.cnt + 1) phase)
  | rbLast d phase full =>
    have noRoom : ¬s.cnt < 18 := by simp [show s.cnt = 18 from full]
    exact lands (exec_rbLast ready phase full d) ((transition_readBody phase d).trans (if_neg noRoom))
      (Prod.ext_iff.mpr (State.judge_place _))
  | rbTmo d phase => exact lands (exec_rbTmo ready phase d) (transition_of_kind (by decide) d _ _) rfl
  | xFatal d => exact lands (exec_xFatal ready d) (transition_of_kind (by decide) d _ _) rfl
  | srcRsvd d => exact absurd (srcKind_srcWord 3 d) kind

end Sys2Proof.Machine
end

section
/-! PROOFS. A frame as bytes (30_encoding R70, R86; 42_payload_codec R143): a payload is the payload of the Record decoded from it,
and the 19 bytes of body and trailer, with what `validate` finds in them. -/

namespace Sys2Proof.Machine

open BitVec (extractLsb'_append_eq_of_le extractLsb'_append_eq_of_add_le extractLsb'_eq_self)

/-! ## The payload of a decoded Record -/

/-- Every payload is the payload of the Record decoded from it: a byte of a field is the byte that arrived for it. -/
@[simp] theorem encodePayload_decodePayload (p : Vector Byte 16) : encodePayload (decodePayload p) = p := by
  rw [← Vector.toList_inj, toList_sixteen p]
  simp (disch := decide) only [encodePayload, decodePayload, le16, le64, fieldByte, extractLsb'_append_eq_of_le,
    extractLsb'_append_eq_of_add_le, extractLsb'_eq_self, Nat.reduceSub, Nat.reduceMul]
  rfl

/-- A frame altered at a payload offset is the frame of the Record decoded from the altered payload, with the old checksum. -/
theorem frameBytes_set (r : Record) (c v : Byte) {k : Nat} (low : 3 ≤ k) (high : k ≤ 18) :
    (frameBytes r c).set k v =
      frameBytes (decodePayload ((encodePayload r).set (k - 3) v (by omega))) c := by
  have inPayload : k - 3 < 16 := by omega
  rw [frameBytes, frameBytes, encodePayload_decodePayload, Vector.toList_set, List.append_assoc,
    List.set_append_right _ _ (by simpa using low), List.set_append_left _ _ (by simpa using inPayload), List.append_assoc]
  rfl

/-! ## The body and the trailer -/

/-- The 19 bytes that follow the length byte of a frame: what the buffer holds at its end (10_state R23). -/
def frameBody (r : Record) (c : Byte) : Vector Byte 19 := encodePayload r ++ #v[c, 0x55, 0xAA]

/-- The bytes of a frame: the header, the 18 bytes that are stored and the one with which the frame is judged. -/
theorem frameBytes_eq (r : Record) (c : Byte) :
    frameBytes r c = [0xAA, 0x55, 0x11] ++ (((encodePayload r).toList ++ [c, 0x55]) ++ [0xAA]) := by
  simp [frameBytes]

theorem frameBody_toList (r : Record) (c : Byte) :
    (frameBody r c).toList = ((encodePayload r).toList ++ [c, 0x55]) ++ [0xAA] := rfl

@[simp] theorem payload_frameBody (r : Record) (c : Byte) : payload (frameBody r c) = encodePayload r :=
  Vector.ext fun _ inPayload => (Vector.getElem_ofFn _).trans (Vector.getElem_append_left inPayload)

@[simp] theorem frameBody_checksum (r : Record) (c : Byte) : (frameBody r c)[16] = c := rfl

theorem frameBody_trailer (r : Record) (c : Byte) : (frameBody r c)[17] = 0x55 ∧ (frameBody r c)[18] = 0xAA :=
  ⟨rfl, rfl⟩

/-- A frame with the checksum of its payload is Good. -/
theorem validate_frameBody_good (r : Record) : validate (frameBody r (crc8 (encodePayload r).toList)) = .good := by
  rw [validate, validateWith_of_trailer (frameBody_trailer r _), payload_frameBody, frameBody_checksum]
  exact if_neg fun differ => differ rfl

/-- A frame with any other checksum byte is not. -/
theorem validate_frameBody_badChecksum {r : Record} {c : Byte} (wrong : c ≠ crc8 (encodePayload r).toList) :
    validate (frameBody r c) = .badChecksum (crc8 (encodePayload r).toList) := by
  rw [validate, validateWith_of_trailer (frameBody_trailer r c), payload_frameBody, frameBody_checksum]
  exact if_pos wrong.symm

/-- Settles O43: the five fields and the checksum loop, computed. -/
theorem workedExampleDecodes : Obligations.WorkedExampleDecodes := by
  constructor
  case left => decide
  case right => decide +kernel

end Sys2Proof.Machine
end

section
/-! PROOFS. A frame taken in byte by byte (41_frame_synchronizer R130, R131, R134): what a run of SYNC's turns leaves alone up to
the last byte, then the phases of the frame one after the other, then what its judgement finds. -/

namespace Sys2Proof.Machine

variable {s t u : State} {i : Instr} {ts : List Turn} {rest : List (BitVec 10)} {bytes : List Byte} {b : Byte}

/-! ## SYNC's turn at an offered event -/

theorem State.nextTurn_of_turns {turn : Turn} (turns : s.turns = turn :: ts) : s.nextTurn = turn := by
  rw [State.nextTurn, turns]

theorem State.InReady.not_lowerPReady (ready : s.InReady) : ¬s.LowerPReady := fun lower =>
  ready.not_inFlight (.inl lower.1)

/-- CHECK needs SeekFirst without a read outstanding, where no event is accepted. -/
theorem State.InReady.not_checkReady (ready : s.InReady) : ¬s.CheckReady := by
  obtain ⟨-, -, seeking | armed⟩ := ready
  · exact fun ⟨_, phase, _⟩ => seeking phase
  · exact fun ⟨_, _, unarmed, _⟩ => Bool.false_ne_true (unarmed.symm.trans armed)

/-- SYNC's turn at an event that it is ready for runs the event's row. -/
theorem step_of_event {w : BitVec 10} (ready : s.InReady) (turns : s.turns = .sync :: ts) (head : s.source = w :: rest)
    (row : SrcRow s.mode w i) : step s = exec i s.advance :=
  step_of_select (State.nextTurn_of_turns turns)
    (State.selectSync_of_word ready.not_lowerPReady ready.not_checkReady head row.decode_eq)

/-- Settles O41: the row RB.TMO goes back to the top and touches neither the loop nor the publish handshake. -/
theorem truncatedStreamResynchronizes : Obligations.TruncatedStreamResynchronizes := by
  intro s ignored rest ts ready phase _ head turns
  have run := (step_of_event ready turns head (.rbTmo ignored phase)).trans (exec_rbTmo (s := s.advance) ready phase ignored)
  obtain ⟨alive, idle, -⟩ := ready
  exact ⟨_, run, idle.1, by simp [head], rfl, rfl, alive, fun running => ⟨alive, rfl, rfl, idle, .inr running⟩⟩

/-! ## Runs of SYNC's turns -/

/-- What SYNC leaves alone while it takes in a frame, up to the judgement: all but the phase, the count, the buffer, the read and
the input. -/
def State.background (s : State) :
    (Bool × Bool × Bool × Record) × (Bool × Record × Bool × Bool × Bool × Record) × (Life × Bool × Bool) × List (BitVec 3) :=
  ((s.loopAlive, s.fatal, s.pReq, s.pData), s.storePart, s.hostPart, s.hostOps)

theorem State.background_eq_iff : t.background = s.background ↔
    (t.loopAlive = s.loopAlive ∧ t.fatal = s.fatal ∧ t.pReq = s.pReq ∧ t.pData = s.pData) ∧ t.storePart = s.storePart ∧
      t.hostPart = s.hostPart ∧ t.hostOps = s.hostOps := by
  simp only [State.background, Prod.mk.injEq]

/-- `n` steps lead from `s` to `t`, and all of them leave the background alone. -/
structure State.Takes (s : State) (n : Nat) (t : State) : Prop where
  run : runSteps n s = .next t
  onTheWay : ∀ k ≤ n, ∃ u, runSteps k s = .next u ∧ u.background = s.background

theorem State.Takes.refl (s : State) : s.Takes 0 s where
  run := rfl
  onTheWay := fun _ none => ⟨s, by rw [Nat.le_zero.mp none, runSteps_zero], rfl⟩

theorem State.Takes.of_step (next : step s = .next t) (kept : t.background = s.background) : s.Takes 1 t where
  run := runSteps_succ next
  onTheWay := fun k atMost => by
    obtain rfl | rfl := Nat.le_one_iff_eq_zero_or_eq_one.mp atMost
    · exact ⟨s, rfl, rfl⟩
    · exact ⟨t, runSteps_succ next, kept⟩

theorem State.Takes.kept {n : Nat} (takes : s.Takes n t) : t.background = s.background := by
  obtain ⟨u, run, kept⟩ := takes.onTheWay n (Nat.le_refl n)
  rw [takes.run] at run
  injection run with same
  rw [same, kept]

theorem State.Takes.trans {m n : Nat} (first : s.Takes m t) (second : t.Takes n u) : s.Takes (m + n) u where
  run := (runSteps_add first.run).trans second.run
  onTheWay := fun k atMost => by
    obtain early | late := Nat.le_total k m
    · exact first.onTheWay k early
    · obtain ⟨j, rfl⟩ := Nat.exists_eq_add_of_le late
      obtain ⟨v, run, kept⟩ := second.onTheWay j (by omega)
      exact ⟨v, (runSteps_add first.run).trans run, kept.trans first.kept⟩

/-- On the way there is no publish request. -/
theorem State.Takes.noRequest {n k : Nat} (takes : s.Takes n t) (idle : s.PublishIdle) (atMost : k ≤ n) :
    ∃ u, runSteps k s = .next u ∧ u.pReq = false := by
  obtain ⟨u, run, kept⟩ := takes.onTheWay k atMost
  obtain ⟨⟨-, -, sameReq, -⟩, -⟩ := State.background_eq_iff.mp kept
  exact ⟨u, run, sameReq.trans idle.1⟩

/-! ## The input of a run -/

/-- These bytes are offered first, and SYNC has a turn for each of them. -/
structure State.Offers (s : State) (bytes : List Byte) (rest : List (BitVec 10)) (ts : List Turn) : Prop where
  source : s.source = bytes.map byteWord ++ rest
  turns : s.turns = List.replicate bytes.length .sync ++ ts

theorem State.Offers.tail (offers : s.Offers (b :: bytes) rest ts)
    (ports : (t.source, t.turns) = (s.source.tail, s.turns.tail)) : t.Offers bytes rest ts := by
  obtain ⟨source, turns⟩ := Prod.mk.inj ports
  exact ⟨by rw [source, offers.source]; rfl, by rw [turns, offers.turns]; rfl⟩

theorem State.Offers.step (offers : s.Offers (b :: bytes) rest ts) (ready : s.InReady)
    (row : SrcRow s.mode (srcWord 0 b) i) : step s = exec i s.advance :=
  step_of_event ready offers.turns offers.source row

/-- A byte is accepted, by an operation that leaves the background alone. -/
theorem State.Offers.takes (offers : s.Offers (b :: bytes) rest ts) (ready : s.InReady)
    (row : SrcRow s.mode (srcWord 0 b) i) (run : exec i s.advance = .next t)
    (ports : (t.source, t.turns) = (s.source.tail, s.turns.tail)) (kept : t.background = s.background) :
    s.Takes 1 t ∧ t.Offers bytes rest ts :=
  ⟨.of_step ((offers.step ready row).trans run) kept, offers.tail ports⟩

/-! ## The phases of a frame -/

/-- The loop is alive and no publish is in flight: outside SeekFirst SYNC accepts events (41_frame_synchronizer R110). -/
def State.Listens (s : State) : Prop := s.loopAlive = true ∧ s.PublishIdle

theorem State.Listens.of_background (listens : s.Listens) (kept : t.background = s.background) : t.Listens := by
  obtain ⟨⟨sameAlive, -, sameReq, -⟩, sameStore, -⟩ := State.background_eq_iff.mp kept
  simp only [State.storePart, Prod.mk.injEq] at sameStore
  obtain ⟨-, -, sameAck, -⟩ := sameStore
  obtain ⟨alive, noReq, noAck⟩ := listens
  exact ⟨sameAlive.trans alive, sameReq.trans noReq, sameAck.trans noAck⟩

theorem State.Listens.inReady (listens : s.Listens) (phase : s.syncState ≠ .seekFirst) : s.InReady :=
  ⟨listens.1, listens.2, .inl phase⟩

theorem State.AtFrameStart.listens (top : s.AtFrameStart) : s.Listens := by
  obtain ⟨alive, -, -, idle, -⟩ := top
  exact ⟨alive, idle⟩

/-- SYNC is in the body, and the buffer holds these bytes of it. -/
structure State.InBody (s : State) (got : List Byte) : Prop where
  phase : s.syncState = .readBody
  unarmed : s.armed = false
  count : s.cnt.toNat = got.length
  stored : s.buf.toList.take got.length = got

/-- At the top with no read outstanding, CHECK comes first and arms one (44_lifecycle_control R177). -/
theorem State.AtFrameStart.takes_check (top : s.AtFrameStart) (source : s.source = bytes.map byteWord ++ rest)
    (turns : s.turns = List.replicate (s.turnsToAccept bytes.length) .sync ++ ts) :
    ∃ m t, s.turnsToAccept bytes.length = m + bytes.length ∧ s.Takes m t ∧ t.Offers bytes rest ts ∧
      t.syncState = .seekFirst ∧ t.armed = true := by
  obtain ⟨alive, phase, -, idle, reads⟩ := top
  cases armed : s.armed with
  | true =>
    rw [State.turnsToAccept, if_pos armed] at turns ⊢
    exact ⟨0, s, (Nat.zero_add _).symm, .refl s, ⟨source, turns⟩, phase, armed⟩
  | false =>
    rw [State.turnsToAccept, if_neg (ne_true_of_eq_false armed)] at turns ⊢
    have running : s.runFlag = true := reads.resolve_left (ne_true_of_eq_false armed)
    have ready : s.CheckReady := ⟨alive, phase, armed, idle⟩
    have next : step s = .next { s.advance with armed := true }.quiet := by
      rw [step_of_select (State.nextTurn_of_turns turns) (State.selectSync_of_checkReady ready)]
      exact (State.tryStep_of (s := s.advance) ready).trans (congrArg _ (if_pos running))
    exact ⟨1, _, Nat.add_comm .., .of_step next rfl, ⟨source, by simp [turns, List.replicate_succ]⟩, phase, rfl⟩

theorem State.Offers.takes_firstMark (offers : s.Offers (0xAA :: bytes) rest ts) (listens : s.Listens)
    (phase : s.syncState = .seekFirst) (armed : s.armed = true) :
    ∃ t, (s.Takes 1 t ∧ t.Offers bytes rest ts) ∧ t.syncState = .seekSecond ∧ t.armed = false :=
  have ready : s.InReady := ⟨listens.1, listens.2, .inr armed⟩
  ⟨_, offers.takes ready (.sfMark0 phase) (exec_sfMark0 (s := s.advance) ready phase) rfl rfl, rfl, rfl⟩

theorem State.Offers.takes_secondMark (offers : s.Offers (0x55 :: bytes) rest ts) (listens : s.Listens)
    (phase : s.syncState = .seekSecond) (unarmed : s.armed = false) :
    ∃ t, (s.Takes 1 t ∧ t.Offers bytes rest ts) ∧ t.syncState = .readLength ∧ t.armed = false :=
  have ready : s.InReady := listens.inReady (by simp [phase])
  ⟨_, offers.takes ready (.ssMark1 phase) (exec_ssMark1 (s := s.advance) ready phase) rfl rfl, rfl, unarmed⟩

theorem State.Offers.takes_length (offers : s.Offers (0x11 :: bytes) rest ts) (listens : s.Listens)
    (phase : s.syncState = .readLength) (unarmed : s.armed = false) :
    ∃ t, (s.Takes 1 t ∧ t.Offers bytes rest ts) ∧ t.InBody [] :=
  have ready : s.InReady := listens.inReady (by simp [phase])
  ⟨_, offers.takes ready (.rlLen phase) (exec_rlLen (s := s.advance) ready phase) rfl rfl, rfl, unarmed, rfl, rfl⟩

/-- The start marker and the length byte lead into an empty body. -/
theorem State.Offers.takes_header (offers : s.Offers ([0xAA, 0x55, 0x11] ++ bytes) rest ts) (listens : s.Listens)
    (phase : s.syncState = .seekFirst) (armed : s.armed = true) :
    ∃ t, s.Takes 3 t ∧ t.Offers bytes rest ts ∧ t.InBody [] := by
  obtain ⟨t₁, ⟨first, offers⟩, phase, unarmed⟩ := offers.takes_firstMark listens phase armed
  have listens := listens.of_background first.kept
  obtain ⟨t₂, ⟨second, offers⟩, phase, unarmed⟩ := offers.takes_secondMark listens phase unarmed
  have listens := listens.of_background second.kept
  obtain ⟨t₃, ⟨third, offers⟩, body⟩ := offers.takes_length listens phase unarmed
  exact ⟨t₃, (first.trans second).trans third, offers, body⟩

/-- A byte stored behind the ones that are there. -/
theorem take_succ_set {α : Type} (l : List α) {k : Nat} (inside : k < l.length) (a : α) :
    (l.set k a).take (k + 1) = l.take k ++ [a] := by
  have untouched : (l.take k).set k a = l.take k := List.set_eq_of_length_le (List.length_take_le k l)
  rw [List.take_add_one, List.take_set, untouched, List.getElem?_set_self inside]
  rfl

/-- One more byte of the body. -/
theorem State.Offers.takes_store {got : List Byte} (offers : s.Offers (b :: bytes) rest ts) (listens : s.Listens)
    (body : s.InBody got) (room : got.length < 18) :
    ∃ t, (s.Takes 1 t ∧ t.Offers bytes rest ts) ∧ t.InBody (got ++ [b]) := by
  obtain ⟨phase, unarmed, count, stored⟩ := body
  have ready : s.InReady := listens.inReady (by simp [phase])
  have below : s.cnt < 18 := by bv_omega
  refine ⟨_, offers.takes ready (.rbStore b phase below) (exec_rbStore (s := s.advance) ready phase below b) rfl rfl,
    phase, unarmed, ?count, ?stored⟩
  case count =>
    have more : (s.cnt + 1).toNat = got.length + 1 := by bv_omega
    rw [List.length_append]
    exact more
  case stored =>
    rw [List.length_append]
    show (s.buf.setIfInBounds s.cnt.toNat b).toList.take (got.length + 1) = got ++ [b]
    rw [count, Vector.toList_setIfInBounds, take_succ_set _ (by rw [Vector.length_toList]; omega), stored]

/-- The body goes on as long as there is room for it. -/
theorem State.Offers.takes_body {got : List Byte} (more : List Byte) (offers : s.Offers (bytes ++ more) rest ts)
    (listens : s.Listens) (body : s.InBody got) (room : got.length + bytes.length ≤ 18) :
    ∃ t, s.Takes bytes.length t ∧ t.Offers more rest ts ∧ t.InBody (got ++ bytes) := by
  induction bytes generalizing s got with
  | nil => exact ⟨s, .refl s, offers, by rwa [List.append_nil]⟩
  | cons b bytes ih =>
    rw [List.length_cons] at room
    obtain ⟨t, ⟨first, offers⟩, body⟩ := State.Offers.takes_store offers listens body (by omega)
    obtain ⟨u, others, offers, body⟩ := ih offers (listens.of_background first.kept) body (by
      rw [List.length_append, List.length_singleton]
      omega)
    refine ⟨u, ?_, offers, ?_⟩
    · rw [List.length_cons, Nat.add_comm]
      exact first.trans others
    · rwa [List.append_assoc] at body

/-! ## The frame's end -/

/-- With 18 bytes in place the 19th fills the buffer. -/
theorem State.InBody.toList_set_last {got : List Byte} (body : s.InBody got) (full : got.length = 18) :
    (s.buf.set 18 b).toList = got ++ [b] := by
  have last : s.buf.toList.length = 18 + 1 := Vector.length_toList
  calc (s.buf.set 18 b).toList = (s.buf.toList.set 18 b).take (18 + 1) := by
        rw [Vector.toList_set, List.take_of_length_le (by rw [List.length_set, last])]
    _ = s.buf.toList.take 18 ++ [b] := take_succ_set _ (by rw [last]; decide) b
    _ = got ++ [b] := by rw [← full, body.stored]

/-- From the top of the loop, a frame is taken in byte by byte and then judged; `u` is the machine with the whole body in its
buffer. -/
theorem State.AtFrameStart.judges_frame {r : Record} {c : Byte} (top : s.AtFrameStart)
    (source : s.source = (frameBytes r c).map byteWord ++ rest)
    (turns : s.turns = List.replicate (s.turnsToAccept 22) .sync ++ ts) :
    ∃ u : State, (∀ k < s.turnsToAccept 22, ∃ t, runSteps k s = .next t ∧ t.pReq = false) ∧
      runSteps (s.turnsToAccept 22) s = .next u.judge ∧ u.buf = frameBody r c ∧ u.background = s.background ∧
      u.armed = false ∧ u.Offers [] rest ts := by
  have listens : s.Listens := top.listens
  obtain ⟨m, t₀, count, check, offers, phase, armed⟩ := top.takes_check source turns
  have listens₀ := listens.of_background check.kept
  rw [frameBytes_eq] at offers
  obtain ⟨t₁, header, offers, body⟩ := offers.takes_header listens₀ phase armed
  have listens₁ := listens₀.of_background header.kept
  obtain ⟨t₂, stores, offers, body⟩ := offers.takes_body [0xAA] listens₁ body (by simp)
  have listens₂ := listens₁.of_background stores.kept
  have takes := (check.trans header).trans stores
  have full : t₂.cnt = 18 := BitVec.eq_of_toNat_eq (by simpa using body.count)
  have ready : t₂.InReady := listens₂.inReady (by simp [body.phase])
  have judged := (offers.step ready (.rbLast 0xAA body.phase full)).trans
    (exec_rbLast (s := t₂.advance) ready body.phase full 0xAA)
  have count : s.turnsToAccept 22 = m + 3 + 18 + 1 := count
  rw [count]
  refine ⟨{ t₂.advance.consume with buf := t₂.buf.set 18 0xAA },
    fun k before => takes.noRequest listens.2 (Nat.lt_succ_iff.mp before),
    (runSteps_add takes.run).trans (runSteps_succ judged), ?body, takes.kept, body.unarmed, offers.tail rfl⟩
  case body =>
    rw [← Vector.toList_inj, frameBody_toList]
    exact body.toList_set_last rfl

end Sys2Proof.Machine
end

section
/-! PROOFS. What comes of a frame (41_frame_synchronizer R130, R131): a valid one requests one publish, which the store serves and a
TAKE returns once; one with a wrong checksum requests none. -/

namespace Sys2Proof.Machine

variable {s : State} {ts : List Turn} {r : Record} {c : Byte}

/-! ## The verdict -/

/-- A valid frame's last byte requests the publish of its Record. -/
theorem State.judge_validFrame (body : s.buf = frameBody r (crc8 (encodePayload r).toList)) :
    s.judge = (s.crcDone.raisePublish r).resync (.frameOk r) := by
  have good : validate s.buf = .good := body ▸ validate_frameBody_good r
  rw [State.judge_good good, body, payload_frameBody, decodePayload_encodePayload]

/-- A frame with another checksum byte is discarded with a label. -/
theorem State.judge_wrongChecksum (body : s.buf = frameBody r c) (wrong : c ≠ crc8 (encodePayload r).toList) :
    s.judge = s.crcDone.resync (.eChecksum (crc8 (encodePayload r).toList) c) := by
  have bad : validate s.buf = .badChecksum (crc8 (encodePayload r).toList) := body ▸ validate_frameBody_badChecksum wrong
  have received : s.buf[16] = c := body ▸ frameBody_checksum r c
  rw [State.judge_badChecksum bad, received]

/-- Settles O38: up to the last byte nothing is requested, and there the verdict is Good. -/
theorem validFrameRequestsOnePublish : Obligations.ValidFrameRequestsOnePublish := by
  intro s r rest ts top source turns
  obtain ⟨u, noRequest, run, body, kept, unarmed, offers⟩ := top.judges_frame source turns
  obtain ⟨⟨-, sameFatal, -, -⟩, sameStore, sameHost, -⟩ := State.background_eq_iff.mp kept
  obtain ⟨alive, -, noAck⟩ := top.listens.of_background kept
  rw [State.judge_validFrame body] at run
  exact ⟨noRequest, _, run, rfl, rfl, noAck, rfl, rfl, rfl, unarmed, alive, sameFatal, offers.source, offers.turns, sameStore,
    sameHost⟩

/-- Settles O40: an altered payload is the payload of another Record; up to the last byte nothing is requested, and there the
verdict is BadChecksum, which requests nothing either. -/
theorem mismatchedChecksumIsDiscarded : Obligations.MismatchedChecksumIsDiscarded := by
  refine ⟨fun r k v low high => ⟨_, frameBytes_set r _ v low high⟩, ?_⟩
  intro s r c rest ts top wrong source turns
  obtain ⟨u, noRequest, run, body, kept, unarmed, offers⟩ := top.judges_frame source turns
  obtain ⟨⟨-, sameFatal, -, sameData⟩, sameStore, sameHost, -⟩ := State.background_eq_iff.mp kept
  obtain ⟨alive, idle⟩ := top.listens.of_background kept
  rw [State.judge_wrongChecksum body wrong] at run
  have sameRun : u.runFlag = s.runFlag := congrArg (·.2.1) sameHost
  refine ⟨fun n atMost => ?noRequest, _, run, rfl, rfl, rfl, alive, sameFatal, offers.source, offers.turns, sameData, sameStore,
    sameHost, fun running => ⟨alive, rfl, rfl, idle, .inr (sameRun.trans running)⟩⟩
  case noRequest =>
    obtain before | rfl := Nat.lt_or_eq_of_le atMost
    · exact noRequest n before
    · exact ⟨_, run, idle.1⟩

/-! ## The publish handshake and a TAKE -/

theorem step_sServeP (turns : s.turns = .storeP :: ts) (ready : s.ServePReady) :
    step s = .next { s.advance.putSlot s.pData with pAck := true }.quiet :=
  (step_of_select (State.nextTurn_of_turns turns) (State.selectStoreP_of_servePReady ready)).trans
    (State.tryStep_of (s := s.advance) ready)

theorem step_pLower (turns : s.turns = .sync :: ts) (ready : s.LowerPReady) :
    step s = .next
      { s.advance with pReq := false, pData := Config.freeRecord s.freeCount, freeCount := s.freeCount + 1 }.quiet :=
  (step_of_select (State.nextTurn_of_turns turns) (State.selectSync_of_lowerPReady ready)).trans
    (State.tryStep_of (s := s.advance) ready)

theorem step_sClearP (turns : s.turns = .storeP :: ts) (ready : s.ClearPReady) :
    step s = .next { s.advance with pAck := false }.quiet :=
  (step_of_select (State.nextTurn_of_turns turns) (State.selectStoreP_of_clearPReady ready)).trans
    (State.tryStep_of (s := s.advance) ready)

theorem step_take {a : BitVec 1} {ops : List (BitVec 3)} (turns : s.turns = .hostIssue :: ts)
    (head : s.hostOps = hostWord 2 a :: ops) (free : ¬s.HostBusy) (idle : s.TakeIdle) :
    step s = .next { s.advance.popHost with cReq := true }.quiet := by
  have row : HostRow s.mode (hostWord 2 a) (.take a) := .take a fun stopping => free (.inl stopping)
  rw [step_of_select (State.nextTurn_of_turns turns) (State.selectHostIssue_of_word head row.decode_eq), exec, execTake]
  exact State.issue_of free idle

theorem step_sServeC (turns : s.turns = .storeC :: ts) (ready : s.ServeCReady) :
    step s = .next { s.advance.captureSlot.emptySlot with cAck := true }.quiet :=
  (step_of_select (State.nextTurn_of_turns turns) (State.selectStoreC_of_serveCReady ready)).trans
    (State.tryStep_of (s := s.advance) ready)

theorem step_cLower (turns : s.turns = .hostReturn :: ts) (noStop : ¬s.StopRetReady) (ready : s.LowerCReady) :
    step s = .next ({ s.advance with cReq := false }.answer (.taken s.takeResult)) :=
  (step_of_select (State.nextTurn_of_turns turns) (State.selectHostReturn_of_lowerCReady noStop ready)).trans
    (State.tryStep_of (s := s.advance) ready)

theorem step_sClearC (turns : s.turns = .storeC :: ts) (ready : s.ClearCReady) :
    step s = .next { s.advance with cAck := false }.quiet :=
  (step_of_select (State.nextTurn_of_turns turns) (State.selectStoreC_of_clearCReady ready)).trans
    (State.tryStep_of (s := s.advance) ready)

/-- What the publish handshake leaves alone: the input and what HOST and the take handshake go by. -/
def State.besidePublish (s : State) : List (BitVec 10) × (Life × Bool × Bool) × List (BitVec 3) × Bool :=
  (s.source, s.hostPart, s.hostOps, s.cAck)

/-- A pending publish is served, lowered and cleared in three turns (43_latest_value_store R155 to R157). -/
theorem publish_completes (ready : s.ServePReady) (turns : s.turns = [.storeP, .sync, .storeP] ++ ts) :
    ∃ t, runSteps 3 s = .next t ∧ t.slot = some s.pData ∧ t.PublishIdle ∧ t.turns = ts ∧
      t.besidePublish = s.besidePublish := by
  obtain ⟨s₁, serve, full, ready, turns₁, beside₁⟩ : ∃ t, step s = .next t ∧ t.slot = some s.pData ∧ t.LowerPReady ∧
      t.turns = s.turns.tail ∧ t.besidePublish = s.besidePublish :=
    ⟨_, step_sServeP turns ready, rfl, ⟨ready.1, rfl⟩, rfl, rfl⟩
  rw [turns] at turns₁
  obtain ⟨s₂, lower, same₂, ready, turns₂, beside₂⟩ : ∃ t, step s₁ = .next t ∧ t.slot = s₁.slot ∧ t.ClearPReady ∧
      t.turns = s₁.turns.tail ∧ t.besidePublish = s₁.besidePublish :=
    ⟨_, step_pLower turns₁ ready, rfl, ⟨rfl, ready.2⟩, rfl, rfl⟩
  rw [turns₁] at turns₂
  obtain ⟨s₃, clear, same₃, idle, turns₃, beside₃⟩ : ∃ t, step s₂ = .next t ∧ t.slot = s₂.slot ∧ t.PublishIdle ∧
      t.turns = s₂.turns.tail ∧ t.besidePublish = s₂.besidePublish :=
    ⟨_, step_sClearP turns₂ ready, rfl, ⟨ready.1, rfl⟩, rfl, rfl⟩
  rw [turns₂] at turns₃
  exact ⟨s₃, (runSteps_succ serve).trans ((runSteps_succ lower).trans (runSteps_succ clear)),
    same₃.trans (same₂.trans full), idle, turns₃, beside₃.trans (beside₂.trans beside₁)⟩

/-- A TAKE with nothing in its way returns in three turns what the slot holds, and empties the slot (44_lifecycle_control
R179). -/
theorem take_completes {a : BitVec 1} {ops : List (BitVec 3)} (free : ¬s.HostBusy) (idle : s.TakeIdle)
    (head : s.hostOps = hostWord 2 a :: ops) (turns : s.turns = [.hostIssue, .storeC, .hostReturn] ++ ts) :
    ∃ t, runSteps 3 s = .next t ∧ t.out.hostRet = some (.taken s.slot) ∧ t.slot = none ∧ t.ClearCReady ∧ t.life = s.life ∧
      t.hostOps = ops ∧ t.turns = ts := by
  obtain ⟨s₁, issue, same₁, ready, life₁, ops₁, turns₁⟩ : ∃ t, step s = .next t ∧ t.slot = s.slot ∧ t.ServeCReady ∧
      t.life = s.life ∧ t.hostOps = s.hostOps.tail ∧ t.turns = s.turns.tail :=
    ⟨_, step_take turns head free idle, rfl, ⟨rfl, idle.2⟩, rfl, rfl, rfl⟩
  rw [turns] at turns₁
  obtain ⟨s₂, serve, taken, empty, ready, life₂, ops₂, turns₂⟩ : ∃ t, step s₁ = .next t ∧ t.takeResult = s₁.slot ∧
      t.slot = none ∧ t.LowerCReady ∧ t.life = s₁.life ∧ t.hostOps = s₁.hostOps ∧ t.turns = s₁.turns.tail :=
    ⟨_, step_sServeC turns₁ ready, State.takeResult_captureSlot s₁.advance, rfl, ⟨ready.1, rfl⟩, rfl, rfl, rfl⟩
  rw [turns₁] at turns₂
  have life : s₂.life = s.life := life₂.trans life₁
  have noStop : ¬s₂.StopRetReady := fun stop => free (.inl (life.symm.trans stop.1))
  obtain ⟨s₃, lower, returned, same₃, ready, life₃, ops₃, turns₃⟩ : ∃ t, step s₂ = .next t ∧
      t.out.hostRet = some (.taken s₂.takeResult) ∧ t.slot = s₂.slot ∧ t.ClearCReady ∧ t.life = s₂.life ∧
      t.hostOps = s₂.hostOps ∧ t.turns = s₂.turns.tail :=
    ⟨_, step_cLower turns₂ noStop ready, rfl, rfl, ⟨rfl, ready.2⟩, rfl, rfl, rfl⟩
  rw [turns₂] at turns₃
  exact ⟨s₃, (runSteps_succ issue).trans ((runSteps_succ serve).trans (runSteps_succ lower)),
    by rw [returned, taken, same₁], same₃.trans empty, ready, life₃.trans life, by rw [ops₃, ops₂, ops₁, head, List.tail_cons],
    turns₃⟩

/-- Two TAKEs with no publish between: the first returns what the slot holds, the second nothing (43_latest_value_store
R152). -/
theorem second_take_returns_none {a b : BitVec 1} {ops : List (BitVec 3)} (free : ¬s.HostBusy) (idle : s.TakeIdle)
    (head : s.hostOps = hostWord 2 a :: hostWord 2 b :: ops)
    (turns : s.turns = [.hostIssue, .storeC, .hostReturn, .storeC, .hostIssue, .storeC, .hostReturn] ++ ts) :
    (∃ t, runSteps 3 s = .next t ∧ t.out.hostRet = some (.taken s.slot)) ∧
      ∃ t, runSteps 7 s = .next t ∧ t.out.hostRet = some (.taken none) ∧ t.slot = none := by
  obtain ⟨s₁, first, returned, empty, ready, life₁, ops₁, turns₁⟩ :=
    take_completes (ts := [.storeC, .hostIssue, .storeC, .hostReturn] ++ ts) free idle head turns
  obtain ⟨s₂, clear, same, idle, life₂, ops₂, turns₂⟩ : ∃ t, step s₁ = .next t ∧ t.slot = s₁.slot ∧ t.TakeIdle ∧
      t.life = s₁.life ∧ t.hostOps = s₁.hostOps ∧ t.turns = s₁.turns.tail :=
    ⟨_, step_sClearC turns₁ ready, rfl, ⟨ready.1, rfl⟩, rfl, rfl, rfl⟩
  rw [turns₁] at turns₂
  have free : ¬s₂.HostBusy := by
    rw [State.HostBusy, life₂, life₁, idle.1]
    exact fun busy => busy.elim (fun stopping => free (.inl stopping)) Bool.false_ne_true
  obtain ⟨s₃, second, nothing, empty₃, -⟩ := take_completes free idle (ops₂.trans ops₁) turns₂
  rw [same, empty] at nothing
  exact ⟨⟨s₁, first, returned⟩, s₃, (runSteps_add first).trans ((runSteps_succ clear).trans second), nothing, empty₃⟩

/-- Settles O39: the publish handshake puts the Record in the slot, the first TAKE empties it, and the second finds nothing. -/
theorem validFrameIsTakenExactlyOnce : Obligations.ValidFrameIsTakenExactlyOnce := by
  intro s r rest a b ops ts top free takeIdle source hostOps turns
  rw [List.append_assoc, List.append_assoc] at turns
  obtain ⟨u, -, judged, body, kept, -, offers⟩ := top.judges_frame source turns
  obtain ⟨-, sameStore, sameHost, sameOps⟩ := State.background_eq_iff.mp kept
  obtain ⟨-, -, noAck⟩ := top.listens.of_background kept
  rw [State.judge_validFrame body] at judged
  obtain ⟨p, served, full, idle, turns, beside⟩ :=
    publish_completes (s := (u.crcDone.raisePublish r).resync (.frameOk r)) ⟨rfl, noAck⟩ offers.turns
  have published := (runSteps_add judged).trans served
  have sameAck : u.cAck = s.cAck := congrArg (·.2.2.2.1) sameStore
  obtain ⟨remains, host, hostWords, ack⟩ :
      p.source = rest ∧ p.hostPart = s.hostPart ∧ p.hostOps = s.hostOps ∧ p.cAck = s.cAck := by
    have beside : p.besidePublish = (u.source, u.hostPart, u.hostOps, u.cAck) := beside
    rw [offers.source, sameHost, sameOps, sameAck] at beside
    simpa only [State.besidePublish, Prod.mk.injEq, List.map_nil, List.nil_append] using beside
  simp only [State.hostPart, Prod.mk.injEq] at host
  obtain ⟨life, -, request⟩ := host
  have free : ¬p.HostBusy := by rwa [State.HostBusy, life, request]
  have takeIdle : p.TakeIdle := ⟨request.trans takeIdle.1, ack.trans takeIdle.2⟩
  obtain ⟨⟨t₁, first, returned⟩, t₂, second, nothing, -⟩ :=
    second_take_returns_none free takeIdle (hostWords.trans hostOps) turns
  rw [full] at returned
  exact ⟨⟨p, published, full, idle, remains⟩, ⟨t₁, (runSteps_add published).trans first, returned⟩,
    t₂, (runSteps_add published).trans second, nothing⟩

end Sys2Proof.Machine
end

section
/-! PROOFS. The Payload Codec (42_payload_codec R140, R143): the values of its little-endian fields, the Record that DECODE reads
from the buffer, and the two directions of the codec; O34 and O35. -/

namespace Sys2Proof.Machine

/-! ## The values of the fields -/

theorem toNat_le16 (b0 b1 : Byte) : (le16 b0 b1).toNat = b0.toNat + 256 * b1.toNat :=
  toNat_append_eq b1 b0

/-- Byte `k` of a 64-bit field counts `256 ^ k`. -/
theorem toNat_le64 (b0 b1 b2 b3 b4 b5 b6 b7 : Byte) : (le64 b0 b1 b2 b3 b4 b5 b6 b7).toNat =
    b0.toNat + 256 * b1.toNat + 256 ^ 2 * b2.toNat + 256 ^ 3 * b3.toNat + 256 ^ 4 * b4.toNat + 256 ^ 5 * b5.toNat +
      256 ^ 6 * b6.toNat + 256 ^ 7 * b7.toNat := by
  rw [← leNat_eight]
  simp only [leNat]
  omega

/-! ## DECODE -/

@[simp] theorem getElem_payload (b : Vector Byte 19) {k : Nat} (inPayload : k < 16) : (payload b)[k] = b[k] :=
  Vector.getElem_ofFn inPayload

theorem exec_decode (s : State) :
    exec .decode s = .next { s with out := { codec := some (decodePayload (payload s.buf)) } } := rfl

/-- Settles O34: each field is a little-endian value of its bytes, and byte `k` of the payload is `buf[k]`. -/
theorem decodeReadsLittleEndianFields : Obligations.DecodeReadsLittleEndianFields := by
  intro s
  refine ⟨decodePayload (payload s.buf), exec_decode s, rfl, ?x, ?y, ?w, ?h, ?timestamp⟩
  case x | y | w | h => simp only [decodePayload, toNat_le16, getElem_payload]
  case timestamp => simp only [decodePayload, toNat_le64, getElem_payload]

/-! ## The codec and its inverse -/

/-- Settles O35: the bytes of a field rebuild it, and each byte of a payload is read back from its field. -/
theorem payloadCodecIsABijection : Obligations.PayloadCodecIsABijection :=
  ⟨decodePayload_encodePayload, encodePayload_decodePayload⟩

end Sys2Proof.Machine
end

section
/-! PROOFS. The operations of the Latest-Value Store (43_latest_value_store R151 to R162): first an equation for each operation in
the phase that enables it, then the statements about one operation, then the two about several turns. -/

namespace Sys2Proof.Machine

variable {s : State} {ts : List Turn}

/-! ## The abstract operations -/

theorem State.slot_of_valid (full : s.slotValid = true) : s.slot = some s.slotRec := if_pos full

theorem State.slot_of_not_valid (empty : s.slotValid = false) : s.slot = none := if_neg (ne_true_of_eq_false empty)

theorem exec_publish (s : State) (r : Record) : exec (.publish r) s = .next (s.putSlot r).quiet := rfl

theorem exec_takeAbs_full (full : s.slotValid = true) :
    exec .takeAbs s = .next (s.emptySlot.answer (.taken (some s.slotRec))) := by
  rw [exec, execTakeAbs, if_pos full, State.slot_of_valid full]

theorem exec_takeAbs_empty (empty : s.slotValid = false) : exec .takeAbs s = .next (s.answer (.taken none)) := by
  rw [exec, execTakeAbs, if_neg (ne_true_of_eq_false empty), State.slot_of_not_valid empty]

/-- Settles O20: PUBLISH has no guard; TAKE.ABS by what the slot holds. -/
theorem abstractStoreOperationsRun : Obligations.AbstractStoreOperationsRun := fun s r =>
  ⟨exec_publish s r, fun full => ⟨_, _, exec_takeAbs_full full⟩, exec_takeAbs_empty⟩

/-! ## The publish handshake -/

theorem exec_pRaise (idle : s.PublishIdle) (r : Record) : exec (.pRaise r) s = .next (s.raisePublish r).quiet :=
  State.tryStep_of idle

theorem exec_sServeP (ready : s.ServePReady) : exec .sServeP s = .next { s.putSlot s.pData with pAck := true }.quiet :=
  State.tryStep_of ready

theorem exec_pLower (ready : s.LowerPReady) : exec .pLower s =
    .next { s with pReq := false, pData := Config.freeRecord s.freeCount, freeCount := s.freeCount + 1 }.quiet :=
  State.tryStep_of ready

theorem exec_sClearP (ready : s.ClearPReady) : exec .sClearP s = .next { s with pAck := false }.quiet :=
  State.tryStep_of ready

/-- Settles O21: in each phase of the handshake the guard of one of its four steps holds. -/
theorem publishHandshakeStepsRun : Obligations.PublishHandshakeStepsRun := fun _ r =>
  ⟨fun req ack => exec_pRaise ⟨req, ack⟩ r, fun req ack => exec_sServeP ⟨req, ack⟩,
    fun req ack => ⟨_, _, exec_pLower ⟨req, ack⟩⟩, fun req ack => exec_sClearP ⟨req, ack⟩⟩

/-! ## The take handshake -/

theorem exec_take (free : ¬s.HostBusy) (idle : s.TakeIdle) (arg : BitVec 1) :
    exec (.take arg) s = .next { s.popHost with cReq := true }.quiet := by
  rw [exec, execTake]
  exact State.issue_of free idle

theorem exec_cRaise (free : ¬s.HostBusy) (idle : s.TakeIdle) : exec .cRaise s = .next { s with cReq := true }.quiet :=
  State.tryStep_of ⟨idle, free⟩

theorem exec_sServeC (ready : s.ServeCReady) : exec .sServeC s = .next { s.captureSlot.emptySlot with cAck := true }.quiet :=
  State.tryStep_of ready

theorem exec_cLower (ready : s.LowerCReady) : exec .cLower s = .next ({ s with cReq := false }.answer (.taken s.takeResult)) :=
  State.tryStep_of ready

theorem exec_sClearC (ready : s.ClearCReady) : exec .sClearC s = .next { s with cAck := false }.quiet :=
  State.tryStep_of ready

/-- Settles O19: no operation is in progress, so the word is admitted, and the idle handshake lets the request go up. -/
theorem takeIsIssuedByRaisingTheRequest : Obligations.TakeIsIssuedByRaisingTheRequest := fun _ arg free idle =>
  ⟨HostRow.decode_eq (.take arg fun stopping => free (.inl stopping)), exec_take free idle arg, exec_cRaise free idle⟩

/-- Settles O22: in each phase of the handshake the guard of one step holds; what a full slot holds is what is captured. -/
theorem takeHandshakeStepsRun : Obligations.TakeHandshakeStepsRun := fun _ =>
  ⟨fun req ack => ⟨_, _, _, exec_sServeC ⟨req, ack⟩, fun full => if_pos full⟩, fun req ack => exec_cLower ⟨req, ack⟩,
    fun req ack => exec_sClearC ⟨req, ack⟩⟩

/-! ## Several turns -/

/-- Settles O24: the first TAKE returns what the slot holds, which is `r`, and empties it. -/
theorem secondTakeReturnsNothing : Obligations.SecondTakeReturnsNothing := by
  intro s a b ops ts r free idle full head turns
  have takes := second_take_returns_none free idle head turns
  rwa [full] at takes

/-- STORE's turn on the publish side puts the pending Record in the slot and leaves the take handshake. -/
theorem publish_served (ready : s.ServePReady) (turns : s.turns = .storeP :: ts) :
    ∃ t, step s = .next t ∧ t.slot = some s.pData ∧ t.LowerPReady ∧ t.turns = ts ∧ t.takeResult = s.takeResult ∧
      t.cReq = s.cReq ∧ t.cAck = s.cAck :=
  ⟨_, step_sServeP turns ready, rfl, ⟨ready.1, rfl⟩, by simp [turns], rfl, rfl, rfl⟩

/-- STORE's turn on the take side captures what the slot holds, empties it, and leaves the publish handshake. -/
theorem take_served (ready : s.ServeCReady) (turns : s.turns = .storeC :: ts) :
    ∃ t, step s = .next t ∧ t.takeResult = s.slot ∧ t.slot = none ∧ t.LowerCReady ∧ t.turns = ts ∧ t.pData = s.pData ∧
      t.pReq = s.pReq ∧ t.pAck = s.pAck :=
  ⟨_, step_sServeC turns ready, State.takeResult_captureSlot s.advance, rfl, ⟨ready.1, rfl⟩, by simp [turns], rfl, rfl, rfl⟩

/-- Settles O25: the first serve leaves the other side's request pending, and the second finds in the slot what the first left
there. -/
theorem eitherSideMayBeServedFirst : Obligations.EitherSideMayBeServedFirst := by
  intro s ts publish take
  refine ⟨fun turns => ?takeFirst, fun turns => ?publishFirst⟩
  case takeFirst =>
    obtain ⟨u, serveC, taken, -, lowerC, turns, sameData, sameReq, sameAck⟩ := take_served take turns
    have publish : u.ServePReady := ⟨sameReq.trans publish.1, sameAck.trans publish.2⟩
    obtain ⟨t, serveP, full, lowerP, -, sameResult, sameReq, sameAck⟩ := publish_served publish turns
    exact ⟨t, (runSteps_succ serveC).trans (runSteps_succ serveP), sameResult.trans taken, by rw [full, sameData],
      ⟨sameReq.trans lowerC.1, sameAck.trans lowerC.2⟩, lowerP⟩
  case publishFirst =>
    obtain ⟨u, serveP, full, lowerP, turns, -, sameReq, sameAck⟩ := publish_served publish turns
    have take : u.ServeCReady := ⟨sameReq.trans take.1, sameAck.trans take.2⟩
    obtain ⟨t, serveC, taken, empty, lowerC, -, -, sameReq, sameAck⟩ := take_served take turns
    exact ⟨t, (runSteps_succ serveP).trans (runSteps_succ serveC), taken.trans full, empty, lowerC,
      sameReq.trans lowerP.1, sameAck.trans lowerP.2⟩

end Sys2Proof.Machine
end

section
/-! PROOFS. What every step does to the slot and to the data of the two handshakes (43_latest_value_store R154, R156, R159, R163;
10_state R40 (h)): for each, a case analysis over the moves, and the statement about steps from it. -/

namespace Sys2Proof.Machine

variable {s t : State} {turn : Turn}

/-! ## The slot -/

theorem State.storePart_eq_iff : t.storePart = s.storePart ↔
    t.slotValid = s.slotValid ∧ t.slotRec = s.slotRec ∧ t.pAck = s.pAck ∧ t.cAck = s.cAck ∧ t.cValid = s.cValid ∧
      t.cData = s.cData := by
  simp only [State.storePart, Prod.mk.injEq]

/-- What a move does to the slot: a publish, a take, a RESET, or nothing. -/
theorem Moves.slot_cases (move : Moves s turn t) :
    (turn = .storeP ∧ s.ServePReady ∧ t.slot = some s.pData ∧ t.pAck = true) ∨
      (turn = .storeC ∧ s.ServeCReady ∧ t.slot = none ∧ t.takeResult = s.slot ∧ t.cAck = true) ∨
      (turn = .rst ∧ t.slot = none) ∨ (t.slotValid = s.slotValid ∧ t.slotRec = s.slotRec) := by
  cases move with
  | servesP ready => exact .inl ⟨rfl, ready, rfl, rfl⟩
  | servesC ready => exact .inr (.inl ⟨rfl, ready, rfl, State.takeResult_captureSlot s, rfl⟩)
  | resets => exact .inr (.inr (.inl ⟨rfl, rfl⟩))
  | judges =>
    obtain ⟨sameValid, sameRec, -⟩ := State.storePart_eq_iff.mp (State.judge_storePart _)
    exact .inr (.inr (.inr ⟨sameValid, sameRec⟩))
  | _ => exact .inr (.inr (.inr ⟨rfl, rfl⟩))

/-- Settles O26, by the four things a move can do to the slot. -/
theorem everyStepIsAPublishATakeOrSilent : Obligations.EveryStepIsAPublishATakeOrSilent := fun _ _ next =>
  (step_moves next).slot_cases

/-! ## The data of the handshakes -/

/-- While a publish is requested no frame is judged, and P_LOWER and RESET end the request; no other move writes `p_data`. -/
theorem Moves.pData_eq (move : Moves s turn t) (before : s.pReq = true) (after : t.pReq = true) : t.pData = s.pData := by
  cases move with
  | judges ready => exact absurd ready (not_inReady_of_pReq before)
  | lowersP | resets => exact absurd after Bool.false_ne_true
  | _ => rfl

/-- Settles O27: a step is one of the moves, and none changes the data of a request that stays. -/
theorem publishDataIsStableWhileRequested : Obligations.PublishDataIsStableWhileRequested := fun _ _ next =>
  (step_moves next).pData_eq

/-- Outside RESET only S_SERVE_C writes what a take captured. -/
theorem Moves.takeData_eq (move : Moves s turn t) (notRst : turn ≠ .rst) (noServe : ¬(turn = .storeC ∧ s.ServeCReady)) :
    t.cValid = s.cValid ∧ t.cData = s.cData := by
  cases move with
  | servesC ready => exact absurd ⟨rfl, ready⟩ noServe
  | resets => exact absurd rfl notRst
  | judges =>
    obtain ⟨-, -, -, -, same⟩ := State.storePart_eq_iff.mp (State.judge_storePart _)
    exact same
  | _ => exact ⟨rfl, rfl⟩

/-- Settles O28: a step is one of the moves, and only the serve of a take and RESET write the captured data. -/
theorem takeDataIsStableBetweenServes : Obligations.TakeDataIsStableBetweenServes := fun _ _ next =>
  (step_moves next).takeData_eq

/-! ## SYNC while a publish is in flight -/

/-- With a publish in flight SYNC accepts no event and takes no CHECK: where P_LOWER is not enabled, it waits. -/
theorem Moves.eq_quiet_of_inFlight (move : Moves s .sync t) (inFlight : s.pReq = true ∨ s.pAck = true)
    (noLower : ¬s.LowerPReady) : t = s.quiet := by
  cases move with
  | waits => rfl
  | lowersP ready => exact absurd ready noLower
  | arms ready | ends ready =>
    obtain ⟨-, -, -, idle⟩ := ready
    exact absurd inFlight idle.not_inFlight
  | _ ready => exact absurd inFlight ready.not_inFlight

/-- Settles O29: where P_LOWER is enabled SYNC's turn runs it, and otherwise SYNC waits. -/
theorem publishInFlightHoldsSyncStill : Obligations.PublishInFlightHoldsSyncStill := by
  intro s t next sync inFlight
  split
  case isTrue ready =>
    rw [step_of_select sync (State.selectSync_of_lowerPReady ready), exec_pLower (s := s.advance) ready] at next
    injection next with lowered
    exact ⟨_, _, lowered.symm⟩
  case isFalse noLower =>
    have move : Moves s.advance .sync t := sync ▸ step_moves next
    exact move.eq_quiet_of_inFlight inFlight noLower

end Sys2Proof.Machine
end

section
/-! PROOFS. The host operations, CHECK, the return from STOP and RESET (44_lifecycle_control R170 to R182): first an equation for
each operation in the mode that admits it, then the statements about one operation, then the refusal of an overlapping one. -/

namespace Sys2Proof.Machine

variable {s t : State} {i : Instr}

/-! ## CHECK and the return from STOP -/

theorem exec_check_of_run (ready : s.CheckReady) (run : s.runFlag = true) :
    exec .check s = .next { s with armed := true }.quiet :=
  (State.tryStep_of ready).trans (congrArg _ (if_pos run))

theorem exec_check_of_not_run (ready : s.CheckReady) (noRun : s.runFlag = false) :
    exec .check s = .next ({ s with loopAlive := false }.emit .loopExit) :=
  (State.tryStep_of ready).trans (congrArg _ (if_neg (ne_true_of_eq_false noRun)))

theorem exec_stopRet (ready : s.StopRetReady) :
    exec .stopRet s = .next { s with life := .stopped, out := { hostRet := some .stopped, close := true } } :=
  State.tryStep_of ready

theorem exec_stopRet_waits (notReady : ¬s.StopRetReady) : exec .stopRet s = .next s.quiet := State.tryStep_not notReady

/-- Settles O12: CHECK by what the run flag says. -/
theorem checkSamplesTheRunFlag : Obligations.CheckSamplesTheRunFlag := fun _ ready =>
  ⟨exec_check_of_run ready, exec_check_of_not_run ready⟩

/-! ## The host operations -/

theorem State.not_stopping_of_free (free : ¬s.HostBusy) : s.life ≠ .stopping := fun stopping => free (.inl stopping)

section

variable (free : ¬s.HostBusy)

include free

theorem exec_startOk (idle : s.life = .idle) : exec .startOk s = .next ({ s.popHost with
    runFlag := true, loopAlive := true, syncState := .seekFirst, cnt := 0, armed := false, life := .running }.answer
      (.started true)) := by
  rw [exec, execStartOk]
  exact State.issue_of free idle

theorem exec_startFail (idle : s.life = .idle) :
    exec .startFail s = .next { s.popHost with out := { evt := some .eOpen, hostRet := some (.started false) } } := by
  rw [exec, execStartFail]
  exact State.issue_of free idle

theorem exec_startRej (mode : s.life = .running ∨ s.life = .stopped) (openOk : BitVec 1) : exec (.startRej openOk) s =
    .next { s.popHost with out := { evt := some (.eStart s.life), hostRet := some (.started false) } } := by
  rw [exec, execStartRej]
  exact State.issue_of free mode

theorem exec_stop (running : s.life = .running) (arg : BitVec 1) :
    exec (.stop arg) s = .next { s.popHost with runFlag := false, life := .stopping }.quiet := by
  rw [exec, execStop]
  exact State.issue_of free running

theorem exec_stopIdle (mode : s.life = .idle ∨ s.life = .stopped) (arg : BitVec 1) :
    exec (.stopIdle arg) s = .next ({ s.popHost with life := .stopped }.answer .stopped) := by
  rw [exec, execStopIdle]
  exact State.issue_of free mode

theorem exec_stat (arg : BitVec 1) : exec (.stat arg) s = .next (s.popHost.answer s.status) := by
  rw [exec, execStat]
  exact State.issue_of free trivial

end

/-- Settles O13: the three rows of START, each with its equation. -/
theorem startReturnsByMode : Obligations.StartReturnsByMode := fun _ free =>
  ⟨fun idle => ⟨HostRow.decode_eq (.startOk idle), exec_startOk free idle⟩,
    fun idle => ⟨HostRow.decode_eq (.startFail idle), exec_startFail free idle⟩,
    fun openOk mode => ⟨HostRow.decode_eq (.startRej openOk mode), exec_startRej free mode openOk⟩⟩

/-- Settles O14: the two rows of STOP and its return, each with its equation. -/
theorem stopReturnsByMode : Obligations.StopReturnsByMode := by
  intro s arg
  refine ⟨fun free running => ⟨HostRow.decode_eq (.stop arg running), exec_stop free running arg⟩,
    fun free mode => ⟨HostRow.decode_eq (.stopIdle arg mode), exec_stopIdle free mode arg⟩,
    fun stopping dead => exec_stopRet ⟨stopping, dead⟩, fun notReady => exec_stopRet_waits ?_⟩
  rintro ⟨stopping, dead⟩
  exact notReady.elim (· stopping) (ne_true_of_eq_false dead)

/-- Settles O15: the row STAT, which asks only that no operation is in progress. -/
theorem statReturnsTheStatus : Obligations.StatReturnsTheStatus := fun _ arg free =>
  ⟨HostRow.decode_eq (.stat arg (State.not_stopping_of_free free)), exec_stat free arg⟩

/-! ## RESET -/

theorem exec_reset (s : State) : exec .reset s = .next { State.reset with
    source := s.source, hostOps := s.hostOps, wire := s.wire, turns := s.turns, tick := s.tick, freeCount := s.freeCount } :=
  rfl

/-- Settles O16: RESET has no guard, and each control element is the one of the reset state. -/
theorem resetRestoresEveryElement : Obligations.ResetRestoresEveryElement := fun s =>
  ⟨Row.rst.decode_eq, _, exec_reset s, ⟨rfl, rfl, rfl, rfl, rfl, rfl, rfl⟩, ⟨rfl, rfl, rfl, rfl, rfl⟩, rfl,
    rfl, rfl, rfl, rfl, rfl, rfl⟩

/-! ## No two at a time -/

/-- While a host operation is in progress every other is refused (44_lifecycle_control R182). -/
theorem exec_hostOp_of_busy (busy : s.HostBusy) (hostOp : i.isHostOp = true) : exec i s = .refused .hostOverlap := by
  cases i with
  | startOk | startFail | startRej | stop | stopIdle | take | stat => rw [exec]; exact State.issue_busy busy
  | _ => cases hostOp

theorem HostRow.isHostOp {m : Mode} {w : BitVec 3} (row : HostRow m w i) : i.isHostOp = true := by
  cases row <;> rfl

/-- The only reason a host word is rejected is that STOP has not returned. -/
theorem decodeHost_error {m : Mode} {w : BitVec 3} {e : DecodeError} (dec : decode m (.host w) = .error e) :
    e = .hostOperationInProgress := by
  by_cases stopping : m.life = .stopping
  · rw [decode, decodeHost, if_pos stopping] at dec
    injection dec with same
    exact same.symm
  · rw [decode, decodeHost, if_neg stopping] at dec
    split_ifs at dec

/-- A word that HOST issues while an operation is in progress is refused, whether a row admits it or not. -/
theorem step_hostIssue_of_busy {w : BitVec 3} {rest : List (BitVec 3)} (busy : s.HostBusy) (head : s.hostOps = w :: rest)
    (turn : s.nextTurn = .hostIssue) : step s = .refused .hostOverlap := by
  cases dec : decode s.mode (.host w) with
  | ok i =>
    rw [step_of_select turn (State.selectHostIssue_of_word head dec)]
    exact exec_hostOp_of_busy (s := s.advance) busy (decodeHost_row dec).isHostOp
  | error e =>
    have sel : s.select .hostIssue = .reject .hostOperationInProgress := by
      simp only [State.select, State.selectHostIssue, head, dec, decodeHost_error dec, selectDecoded]
    rw [step_eq, turn, State.agentStep, State.select_advance, sel]
    rfl

/-- Settles O18: operation by operation, then the word at the port, then RESET, which leaves no operation in progress. -/
theorem hostOperationsDoNotOverlap : Obligations.HostOperationsDoNotOverlap := fun s busy =>
  ⟨fun _ => exec_hostOp_of_busy busy, fun _ _ => step_hostIssue_of_busy busy, _, exec_reset s,
    fun stillBusy => stillBusy.elim nofun Bool.false_ne_true⟩

end Sys2Proof.Machine
end

section
/-! PROOFS. What every step does to `life` and to the decode loop (44_lifecycle_control R170, R178; 70_reset_and_hazards R233): for
each, a case analysis over the moves, and the statements about steps from it. -/

namespace Sys2Proof.Machine

variable {s t : State} {turn : Turn}

/-! ## The lifecycle table -/

theorem State.judge_life (s : State) : s.judge.life = s.life := congrArg (·.1) s.judge_hostPart

/-- What a move does to `life`: nothing, a RESET, or one of the table's rows. -/
theorem Moves.life_cases (move : Moves s turn t) :
    t.life = s.life ∨ (turn = .rst ∧ t.life = .idle) ∨
      (turn = .hostIssue ∧ s.life = .idle ∧ t.life = .running ∧ s.hostOps.head? = some 0b001) ∨
      (turn = .hostIssue ∧ s.life = .running ∧ t.life = .stopping ∧ s.hostOps.head?.map hostOp = some 1) ∨
      (turn = .hostIssue ∧ s.life = .idle ∧ t.life = .stopped ∧ s.hostOps.head?.map hostOp = some 1) ∨
      (turn = .hostReturn ∧ s.life = .stopping ∧ s.loopAlive = false ∧ t.life = .stopped) := by
  cases move with
  | resets => exact .inr (.inl ⟨rfl, rfl⟩)
  | starts free idle head => exact .inr (.inr (.inl ⟨rfl, idle, rfl, head⟩))
  | stops free running head => exact .inr (.inr (.inr (.inl ⟨rfl, running, rfl, head⟩)))
  | stopsAtOnce free mode head =>
    obtain idle | stopped := mode
    · exact .inr (.inr (.inr (.inr (.inl ⟨rfl, idle, rfl, head⟩))))
    · exact .inl stopped.symm
  | stopReturns ready =>
    obtain ⟨stopping, dead⟩ := ready
    exact .inr (.inr (.inr (.inr (.inr ⟨rfl, stopping, dead, rfl⟩))))
  | judges => exact .inl (State.judge_life _)
  | _ => exact .inl rfl

/-- Settles O48: a step is one of the moves. -/
theorem lifeMovesByTheLifecycleTable : Obligations.LifeMovesByTheLifecycleTable := fun _ _ next =>
  (step_moves next).life_cases

/-- Outside RESET no move leads back to Idle. -/
theorem Moves.not_idle (move : Moves s turn t) (notRst : turn ≠ .rst) (notIdle : s.life ≠ .idle) : t.life ≠ .idle := by
  intro idle
  obtain same | ⟨rst, -⟩ | ⟨-, -, after, -⟩ | ⟨-, -, after, -⟩ | ⟨-, -, after, -⟩ | ⟨-, -, -, after⟩ := move.life_cases
  · exact notIdle (same.symm.trans idle)
  · exact notRst rst
  all_goals exact nomatch after.symm.trans idle

/-! ## The decode loop -/

/-- Judging a frame leaves the loop alive. -/
theorem State.judge_loopAlive (s : State) : s.judge.loopAlive = s.loopAlive := by
  obtain ⟨l, ⟨verdict, -⟩ | ⟨verdict, -⟩⟩ := State.judge_cases s <;> rw [verdict] <;> rfl

/-- What a move but RESET does to the loop: nothing, its end in SYNC's turn, or its start in HOST's. -/
theorem Moves.loopAlive_cases (move : Moves s turn t) (notRst : turn ≠ .rst) :
    t.loopAlive = s.loopAlive ∨
      (t.loopAlive = false ∧ turn = .sync ∧
        ((s.CheckReady ∧ s.runFlag = false) ∨
          (s.InReady ∧ s.source.head?.map srcKind = some 2 ∧ t.fatal = true))) ∨
      (t.loopAlive = true ∧ turn = .hostIssue ∧ s.life = .idle ∧ t.life = .running) := by
  cases move with
  | ends ready noRun => exact .inr (.inl ⟨rfl, rfl, .inl ⟨ready, noRun⟩⟩)
  | dies ready w rest head kind => exact .inr (.inl ⟨rfl, rfl, .inr ⟨ready, by simp [head, kind], rfl⟩⟩)
  | starts free idle => exact .inr (.inr ⟨rfl, rfl, idle, rfl⟩)
  | resets => exact absurd rfl notRst
  | judges => exact .inl (State.judge_loopAlive _)
  | _ => exact .inl rfl

/-- Settles O49, by the three things a move can do to the loop. -/
theorem loopEndsInTwoWaysOnly : Obligations.LoopEndsInTwoWaysOnly := by
  intro s t next notRst
  obtain same | ⟨dead, how⟩ | ⟨alive, how⟩ := (step_moves next).loopAlive_cases notRst
  · exact ⟨fun alive dead => absurd (same.symm.trans dead) (ne_false_of_eq_true alive),
      fun dead alive => absurd (same.symm.trans alive) (ne_true_of_eq_false dead)⟩
  · exact ⟨fun _ _ => how, fun _ alive => absurd alive (ne_true_of_eq_false dead)⟩
  · exact ⟨fun _ dead => absurd alive (ne_true_of_eq_false dead), fun _ _ => how⟩

/-- Outside Idle no START launches a loop: a dead one stays dead until RESET. -/
theorem Moves.stays_dead (move : Moves s turn t) (notRst : turn ≠ .rst) (dead : s.loopAlive = false)
    (notIdle : s.life ≠ .idle) : t.loopAlive = false := by
  obtain same | ⟨deadAfter, -⟩ | ⟨-, -, idle, -⟩ := move.loopAlive_cases notRst
  · exact same.trans dead
  · exact deadAfter
  · exact absurd idle notIdle

/-- With the loop dead SYNC accepts nothing, so that only SRC writes the source. -/
theorem Moves.source_of_dead (move : Moves s turn t) (dead : s.loopAlive = false) :
    t.source = s.source ∨ (turn = .src ∧ ∃ ws, t.source = s.source ++ ws) := by
  obtain same | ⟨-, ⟨alive, -⟩, -⟩ | delivered := move.source_cases
  · exact .inl same
  · exact absurd alive (ne_true_of_eq_false dead)
  · exact .inr delivered

/-- Settles O50: a step is one of the moves, and outside Idle and RESET none starts a loop, goes back to Idle or,
without a loop, accepts an event. -/
theorem deadLoopStaysDeadUntilReset : Obligations.DeadLoopStaysDeadUntilReset := fun s _ next notRst dead notIdle =>
  have move : Moves s.advance s.nextTurn _ := step_moves next
  ⟨move.stays_dead notRst dead notIdle, move.not_idle notRst notIdle, move.source_of_dead dead⟩

end Sys2Proof.Machine
end

section
/-! PROOFS. Host operations run to their return (44_lifecycle_control R176, R177, R179): a TAKE in three turns, and STOP after one
timeout event. -/

namespace Sys2Proof.Machine

variable {s t : State} {ts : List Turn}

/-! ## TAKE -/

/-- What a TAKE leaves alone: SYNC's elements, the lifecycle and the publish acknowledge. -/
def State.besideTake (s : State) :
    ((SyncState × BitVec 5 × Bool × Bool) × (Vector Byte 19 × Byte × Bool × Bool × Record)) × Life × Bool × Bool :=
  (s.syncPart, s.life, s.runFlag, s.pAck)

/-- The three turns of a TAKE, issue, serve and return, each leave it alone. -/
theorem take_leaves {a : BitVec 1} {ops : List (BitVec 3)} (free : ¬s.HostBusy) (idle : s.TakeIdle)
    (head : s.hostOps = hostWord 2 a :: ops) (turns : s.turns = [.hostIssue, .storeC, .hostReturn] ++ ts)
    (run : runSteps 3 s = .next t) : t.besideTake = s.besideTake := by
  obtain ⟨s₁, issue, ready, turns₁, kept₁⟩ : ∃ t, step s = .next t ∧ t.ServeCReady ∧ t.turns = s.turns.tail ∧
      t.besideTake = s.besideTake :=
    ⟨_, step_take turns head free idle, ⟨rfl, idle.2⟩, rfl, rfl⟩
  rw [turns] at turns₁
  obtain ⟨s₂, serve, ready, turns₂, kept₂⟩ : ∃ t, step s₁ = .next t ∧ t.LowerCReady ∧ t.turns = s₁.turns.tail ∧
      t.besideTake = s₁.besideTake :=
    ⟨_, step_sServeC turns₁ ready, ⟨ready.1, rfl⟩, rfl, rfl⟩
  rw [turns₁] at turns₂
  have life : s₂.life = s.life := congrArg (·.2.1) (kept₂.trans kept₁)
  have noStop : ¬s₂.StopRetReady := fun stop => State.not_stopping_of_free free (life.symm.trans stop.1)
  obtain ⟨s₃, lower, kept₃⟩ : ∃ t, step s₂ = .next t ∧ t.besideTake = s₂.besideTake :=
    ⟨_, step_cLower turns₂ noStop ready, rfl⟩
  rw [runSteps_succ issue, runSteps_succ serve, runSteps_succ lower] at run
  injection run with same
  rw [← same, kept₃, kept₂, kept₁]

/-- Settles O23: what the TAKE returns and what it leaves alone. -/
theorem takeReturnsTheSlotAndEmptiesIt : Obligations.TakeReturnsTheSlotAndEmptiesIt := by
  intro s arg ops ts free idle head turns
  obtain ⟨t, run, returned, empty, ⟨request, ack⟩, life, words, turnsLeft⟩ := take_completes free idle head turns
  have kept : t.besideTake = s.besideTake := take_leaves free idle head turns run
  simp only [State.besideTake, Prod.mk.injEq] at kept
  obtain ⟨syncPart, -, runFlag, pAck⟩ := kept
  exact ⟨t, run, returned, empty, words, turnsLeft, syncPart, life, runFlag, pAck, request, ack⟩

/-! ## STOP -/

/-- SYNC accepts a timeout at the top of the loop: the read is over (41_frame_synchronizer R114). -/
theorem step_sfIdle {ignored : Byte} {rest : List (BitVec 10)} (turns : s.turns = .sync :: ts) (ready : s.InReady)
    (phase : s.syncState = .seekFirst) (head : s.source = srcWord 1 ignored :: rest) :
    step s = .next ({ s.advance.consume with armed := false }.emit .okQuiet) :=
  (step_of_event ready turns head (.sfIdle ignored phase)).trans (exec_sfIdle (s := s.advance) ready phase ignored)

/-- CHECK ends the loop when the run flag is down. -/
theorem step_check_ends (turns : s.turns = .sync :: ts) (ready : s.CheckReady) (noRun : s.runFlag = false) :
    step s = .next ({ s.advance with loopAlive := false }.emit .loopExit) :=
  (step_of_select (State.nextTurn_of_turns turns) (State.selectSync_of_checkReady ready)).trans
    (exec_check_of_not_run (s := s.advance) ready noRun)

theorem step_stopRet (turns : s.turns = .hostReturn :: ts) (ready : s.StopRetReady) :
    step s = .next { s.advance with life := .stopped, out := { hostRet := some .stopped, close := true } } :=
  (step_of_select (State.nextTurn_of_turns turns) (State.selectHostReturn_of_stopRetReady ready)).trans
    (exec_stopRet (s := s.advance) ready)

/-- Settles O55: the timeout is accepted, CHECK ends the loop, STOP returns; no turn is STORE's. -/
theorem stopReturnsAfterOneTimeout : Obligations.StopReturnsAfterOneTimeout := by
  intro s ignored rest ts top armed noRun stopping source turns
  obtain ⟨alive, phase, -, idle, -⟩ := top
  obtain ⟨s₁, accept, ready, noRun₁, life₁, source₁, turns₁, store₁⟩ : ∃ t, step s = .next t ∧ t.CheckReady ∧
      t.runFlag = s.runFlag ∧ t.life = s.life ∧ t.source = s.source.tail ∧ t.turns = s.turns.tail ∧
      t.storePart = s.storePart :=
    ⟨_, step_sfIdle turns ⟨alive, idle, .inr armed⟩ phase source, ⟨alive, phase, rfl, idle⟩, rfl, rfl, rfl, rfl, rfl⟩
  rw [turns] at turns₁
  rw [source] at source₁
  have ⟨_, _, unarmed₁, _⟩ := ready
  obtain ⟨s₂, ends, dead, unarmed, life₂, source₂, turns₂, store₂⟩ : ∃ t, step s₁ = .next t ∧ t.loopAlive = false ∧
      t.armed = false ∧ t.life = s₁.life ∧ t.source = s₁.source ∧ t.turns = s₁.turns.tail ∧ t.storePart = s₁.storePart :=
    ⟨_, step_check_ends turns₁ ready (noRun₁.trans noRun), rfl, unarmed₁, rfl, rfl, rfl, rfl⟩
  rw [turns₁] at turns₂
  have returns := step_stopRet turns₂ ⟨life₂.trans (life₁.trans stopping), dead⟩
  exact ⟨_, (runSteps_succ accept).trans ((runSteps_succ ends).trans (runSteps_succ returns)), rfl, dead, unarmed, rfl,
    source₂.trans source₁, store₂.trans store₁⟩

end Sys2Proof.Machine
end

section
/-! PROOFS. What SYNC's turn reads (60_exceptions R208): the turn is compared in two states that SYNC cannot tell apart, the
second written as the first with everything that SYNC may not read replaced. The operations of the turn then have the same
guards and alike effects, and the turn selects the same one. -/

namespace Sys2Proof.Machine

variable {s o : State} {i : Instr}

/-! ## What SYNC may not read -/

/-- The state with everything that SYNC may not read taken from another. -/
def State.withUnseen (s o : State) : State :=
  { s with
    life := o.life, slotValid := o.slotValid, slotRec := o.slotRec, cReq := o.cReq, cAck := o.cAck, cValid := o.cValid,
    cData := o.cData, hostOps := o.hostOps, rst := o.rst, wire := o.wire, out := o.out, turns := o.turns, tick := o.tick }

/-- Two states that agree in what SYNC may read differ in nothing but what it may not. -/
theorem State.withUnseen_eq (same : s.syncView = o.syncView) : s.withUnseen o = o := by
  cases s
  cases o
  simp only [State.syncView, State.syncPart, Prod.mk.injEq] at same
  simp only [State.withUnseen, same]

/-! ## Outcomes that are alike for SYNC -/

/-- SYNC cannot tell the two states apart, and both have the same outputs. -/
def State.Alike (t u : State) : Prop := t.syncView = u.syncView ∧ t.out = u.out

theorem State.Alike.ite {c : Prop} [Decidable c] {t t' u u' : State} (yes : t.Alike t') (no : u.Alike u') :
    (if c then t else u).Alike (if c then t' else u') := by
  split
  · exact yes
  · exact no

/-- Where the first answers a next state the second does, and the two are alike. -/
def AlikeOutcomes (a b : StepOutcome) : Prop := ∀ t, a = .next t → ∃ u, b = .next u ∧ t.Alike u

theorem AlikeOutcomes.of_next {t u : State} (alike : t.Alike u) : AlikeOutcomes (.next t) (.next u) := by
  intro _ next
  injection next with same
  exact ⟨u, rfl, same ▸ alike⟩

theorem State.alike_quiet (s o : State) : s.quiet.Alike (s.withUnseen o).quiet := ⟨rfl, rfl⟩

/-- A guarded operation, whose guard reads only what SYNC may read, does alike in both states if its effects are alike. -/
theorem AlikeOutcomes.of_try {guard : Prop} [Decidable guard] {next next' : State} (alike : next.Alike next') :
    AlikeOutcomes (s.tryStep guard next) ((s.withUnseen o).tryStep guard next') := by
  by_cases g : guard
  · rw [State.tryStep_of g, State.tryStep_of g]
    exact .of_next alike
  · rw [State.tryStep_not g, State.tryStep_not g]
    exact .of_next (State.alike_quiet s o)

/-! ## The operations of SYNC's turn -/

/-- The verdict is the buffer's, and what comes of it is SYNC's own. -/
theorem State.judge_alike (same : s.syncView = o.syncView) : s.judge.Alike o.judge := by
  rw [← State.withUnseen_eq same]
  cases verdict : validate s.buf with
  | badTrailer =>
    rw [State.judge_badTrailer verdict, State.judge_badTrailer (s := s.withUnseen o) verdict]
    exact ⟨rfl, rfl⟩
  | badChecksum computed =>
    rw [State.judge_badChecksum verdict, State.judge_badChecksum (s := s.withUnseen o) verdict]
    exact ⟨rfl, rfl⟩
  | good =>
    rw [State.judge_good verdict, State.judge_good (s := s.withUnseen o) verdict]
    exact ⟨rfl, rfl⟩

/-- An operation of a source row reads nothing but what SYNC may read. -/
theorem SrcRow.exec_alike {m : Mode} {w : BitVec 10} (row : SrcRow m w i) (s o : State) :
    AlikeOutcomes (exec i s) (exec i (s.withUnseen o)) := by
  cases row with
  | sfMark0 | sfSkip | sfIdle | ssMark1 | ssDrop | ssTmo | rlLen | rlBadlen | rlTmo | rbStore | rbTmo | xFatal =>
    exact .of_try ⟨rfl, rfl⟩
  | rbLast => exact .of_try (State.judge_alike rfl)
  | srcRsvd =>
    intro _ next
    cases next

theorem exec_pLower_alike (s o : State) : AlikeOutcomes (exec .pLower s) (exec .pLower (s.withUnseen o)) :=
  .of_try ⟨rfl, rfl⟩

/-- CHECK's two ways are told apart by the run flag, which SYNC may read. -/
theorem exec_check_alike (s o : State) : AlikeOutcomes (exec .check s) (exec .check (s.withUnseen o)) :=
  .of_try (.ite ⟨rfl, rfl⟩ ⟨rfl, rfl⟩)

/-! ## SYNC's turn -/

/-- A source word's row is selected by the phase and the count, not by `life` (30_encoding R79). -/
theorem decode_src_of_life (m : Mode) (life : Life) (w : BitVec 10) :
    decode { m with life := life } (.src w) = decode m (.src w) := rfl

theorem State.selectSync_withUnseen (s o : State) : (s.withUnseen o).selectSync = s.selectSync := by
  simp only [State.selectSync, ← decode_src_of_life s.mode o.life]
  rfl

/-- Whatever SYNC's turn selects, it does alike in both states. -/
theorem State.perform_selectSync_alike (s o : State) :
    AlikeOutcomes (s.perform s.selectSync) ((s.withUnseen o).perform s.selectSync) := by
  cases sel : s.selectSync with
  | idle => exact .of_next (State.alike_quiet s o)
  | run i =>
    obtain ⟨rfl, -⟩ | ⟨rfl, -⟩ | ⟨-, -, w, rest, -, dec⟩ := State.selectSync_run sel
    · exact exec_pLower_alike s o
    · exact exec_check_alike s o
    · exact (decodeSrc_row dec).exec_alike s o
  | deliver bytes =>
    have src : Turn.sync = .src := State.select_deliver sel
    cases src
  | reject e =>
    cases e with
    | hostOperationInProgress | countOutOfRange =>
      intro _ next
      cases next
    | noReset | notAFrame => exact .of_next (State.alike_quiet s o)

/-- Settles O47: the second state is the first with what SYNC may not read replaced. -/
theorem syncReadsOnlyItsOwnView : Obligations.SyncReadsOnlyItsOwnView := by
  intro s₁ s₂ t₁ same next
  have unseen : s₁.withUnseen s₂ = s₂ := State.withUnseen_eq same
  have select : s₁.selectSync = s₂.selectSync := by rw [← State.selectSync_withUnseen s₁ s₂, unseen]
  have alike := State.perform_selectSync_alike s₁ s₂ t₁ next
  rwa [unseen, select] at alike

end Sys2Proof.Machine
end

section
/-! PROOFS. Which operations emit an outcome label (60_exceptions R193): first what a tried operation can emit, then the
operations by the family that R193 puts them in. -/

namespace Sys2Proof.Machine

variable {s t next : State} {i : Instr}

/-! ## What a tried operation can emit -/

/-- A guarded operation emits what its effect emits, or it waits and emits nothing. -/
theorem State.evt_of_tryStep {guard : Prop} [Decidable guard] (run : s.tryStep guard next = .next t) :
    t.out.evt = none ∨ t.out.evt = next.out.evt := by
  obtain ⟨-, rfl⟩ | ⟨-, rfl⟩ := State.tryStep_cases run
  · exact .inr rfl
  · exact .inl rfl

theorem State.evt_of_issue {here : Prop} [Decidable here] {effect : State → State} (run : s.issue here effect = .next t) :
    t.out.evt = none ∨ t.out.evt = (effect s.popHost).out.evt := by
  obtain ⟨-, ⟨-, rfl⟩ | ⟨-, rfl⟩⟩ := State.issue_cases run
  · exact .inr rfl
  · exact .inl rfl

/-! ## The families of R193 -/

theorem evt_of_accept (run : exec i s = .next t) (accepts : i.isAccept = true) (sel : i.selectedIn s.mode = true)
    (ready : s.InReady) : t.out.evt ≠ none := by
  obtain ⟨u, runs, accepted, -⟩ := eventIsAcceptedExactlyWhenReady s i accepts sel
  obtain ⟨-, labelled⟩ := accepted ready
  rw [run] at runs
  injection runs with same
  exact same ▸ labelled

theorem evt_of_check (run : exec .check s = .next t) : t.out.evt = none ∨ t.out.evt = some .loopExit := by
  obtain waits | emits := State.evt_of_tryStep run
  · exact .inl waits
  · split at emits
    · exact .inl emits
    · exact .inr emits

theorem evt_of_startOk (run : exec .startOk s = .next t) : t.out.evt = none := by
  rw [exec] at run
  exact (State.evt_of_issue run).elim id id

theorem evt_of_startFail (run : exec .startFail s = .next t) : t.out.evt = none ∨ t.out.evt = some .eOpen := by
  rw [exec] at run
  exact State.evt_of_issue run

theorem evt_of_startRej {openOk : BitVec 1} (run : exec (.startRej openOk) s = .next t) :
    t.out.evt = none ∨ t.out.evt = some (.eStart s.life) := by
  rw [exec] at run
  exact State.evt_of_issue run

/-- Every operation that R193 does not name is silent: its effect has no label. -/
theorem evt_of_other (run : exec i s = .next t) (noAccept : i.isAccept = false) (noCheck : i ≠ .check)
    (noStart : i ≠ .startOk ∧ i ≠ .startFail ∧ ∀ a, i ≠ .startRej a) : t.out.evt = none := by
  obtain ⟨noOk, noFail, noRej⟩ := noStart
  cases i with
  | sfMark0 | sfSkip | sfIdle | ssMark1 | ssDrop | ssTmo | rlLen | rlBadlen | rlTmo | rbStore | rbLast | rbTmo | xFatal =>
    cases noAccept
  | check => exact absurd rfl noCheck
  | startOk => exact absurd rfl noOk
  | startFail => exact absurd rfl noFail
  | startRej a => exact absurd rfl (noRej a)
  | stop | stopIdle | take | stat =>
    rw [exec] at run
    exact (State.evt_of_issue run).elim id id
  | stopRet | pRaise | sServeP | pLower | sClearP | cRaise | sServeC | cLower | sClearC =>
    exact (State.evt_of_tryStep run).elim id id
  | reset | frame | crcInit | crcStep | decode | publish | takeAbs => cases run; rfl
  | srcRsvd => cases run

/-- Settles O54, family by family. -/
theorem labelsAreEmittedByTheseOperationsOnly : Obligations.LabelsAreEmittedByTheseOperationsOnly := by
  intro s t i run
  refine ⟨evt_of_accept run, ?check, ?start, fun noAccept noCheck noOk noFail noRej =>
    evt_of_other run noAccept noCheck ⟨noOk, noFail, noRej⟩⟩
  case check =>
    rintro rfl
    exact evt_of_check run
  case start =>
    rintro (rfl | rfl | ⟨a, rfl⟩)
    · exact .inl (evt_of_startOk run)
    · exact (evt_of_startFail run).imp_right .inl
    · exact (evt_of_startRej run).imp_right .inr

end Sys2Proof.Machine
end

section
/-! PROOFS. The second-marker hazard (70_reset_and_hazards R227): an attempt that ends at its second byte, and bytes skipped one
read at a time, both back to the top of the loop with the next CHECK still to come. -/

namespace Sys2Proof.Machine

variable {s : State} {ts : List Turn} {b : Byte} {rest : List (BitVec 10)}

/-! ## Between two reads -/

/-- The top of the loop with no read outstanding and the run flag up, so that CHECK comes next and arms one, and what is left of
the input (44_lifecycle_control R177). -/
structure State.BetweenReads (s : State) (rest : List (BitVec 10)) (ts : List Turn) : Prop where
  top : s.AtFrameStart
  unarmed : s.armed = false
  source : s.source = rest
  turns : s.turns = ts

/-- CHECK arms a read while the run flag is up. -/
theorem step_check_arms (turns : s.turns = .sync :: ts) (ready : s.CheckReady) (running : s.runFlag = true) :
    step s = .next { s.advance with armed := true }.quiet :=
  (step_of_select (State.nextTurn_of_turns turns) (State.selectSync_of_checkReady ready)).trans
    (exec_check_of_run (s := s.advance) ready running)

/-! ## SYNC's turn at a marker byte and at a byte of garbage -/

theorem step_sfMark0 (turns : s.turns = .sync :: ts) (ready : s.InReady) (phase : s.syncState = .seekFirst)
    (head : s.source = byteWord 0xAA :: rest) :
    step s = .next ({ s.advance.consume with syncState := .seekSecond, armed := false }.emit .okQuiet) :=
  (step_of_event ready turns head (.sfMark0 phase)).trans (exec_sfMark0 (s := s.advance) ready phase)

theorem step_sfSkip (turns : s.turns = .sync :: ts) (ready : s.InReady) (phase : s.syncState = .seekFirst)
    (other : b ≠ 0xAA) (head : s.source = byteWord b :: rest) :
    step s = .next ({ s.advance.consume with armed := false }.emit (.skip b)) :=
  (step_of_event ready turns head (.sfSkip b phase other)).trans (exec_sfSkip (s := s.advance) ready phase b)

theorem step_ssDrop (turns : s.turns = .sync :: ts) (ready : s.InReady) (phase : s.syncState = .seekSecond)
    (other : b ≠ 0x55) (head : s.source = byteWord b :: rest) :
    step s = .next (s.advance.consume.resync (.eSecond b)) :=
  (step_of_event ready turns head (.ssDrop b phase other)).trans (exec_ssDrop (s := s.advance) ready phase b)

/-! ## Two turns at a time -/

/-- After the first marker byte any byte but 0x55, a second 0xAA too, ends the attempt and is gone (41_frame_synchronizer R116). -/
theorem firstMark_then_drop (top : s.AtFrameStart) (armed : s.armed = true) (running : s.runFlag = true) (other : b ≠ 0x55)
    (source : s.source = byteWord 0xAA :: byteWord b :: rest) (turns : s.turns = .sync :: .sync :: ts) :
    ∃ t, runSteps 2 s = .next t ∧ t.BetweenReads rest ts := by
  obtain ⟨alive, phase, -, idle, -⟩ := top
  obtain ⟨s₁, mark, ready, phase₁, unarmed₁, running₁, source₁, turns₁⟩ : ∃ t, step s = .next t ∧ t.InReady ∧
      t.syncState = .seekSecond ∧ t.armed = false ∧ t.runFlag = s.runFlag ∧ t.source = s.source.tail ∧
      t.turns = s.turns.tail :=
    ⟨_, step_sfMark0 turns ⟨alive, idle, .inr armed⟩ phase source, ⟨alive, idle, .inl nofun⟩, rfl, rfl, rfl, rfl, rfl⟩
  rw [source] at source₁
  rw [turns] at turns₁
  have drop := step_ssDrop turns₁ ready phase₁ other source₁
  obtain ⟨alive₁, idle₁, -⟩ := ready
  exact ⟨_, (runSteps_succ mark).trans (runSteps_succ drop), ⟨alive₁, rfl, rfl, idle₁, .inr (running₁.trans running)⟩,
    unarmed₁, congrArg List.tail source₁, congrArg List.tail turns₁⟩

/-- Between two reads a byte that is no first marker byte costs a CHECK and a SKIP (41_frame_synchronizer R113). -/
theorem State.BetweenReads.check_then_skip (between : s.BetweenReads (byteWord b :: rest) (.sync :: .sync :: ts))
    (other : b ≠ 0xAA) : ∃ t, runSteps 2 s = .next t ∧ t.BetweenReads rest ts ∧ t.out.evt = some (.skip b) := by
  obtain ⟨⟨alive, phase, count, idle, reads⟩, unarmed, source, turns⟩ := between
  have running : s.runFlag = true := reads.resolve_left (ne_true_of_eq_false unarmed)
  obtain ⟨s₁, check, ready, ⟨phase₁, count₁, running₁⟩, source₁, turns₁⟩ : ∃ t, step s = .next t ∧ t.InReady ∧
      (t.syncState = s.syncState ∧ t.cnt = s.cnt ∧ t.runFlag = s.runFlag) ∧ t.source = s.source ∧ t.turns = s.turns.tail :=
    ⟨_, step_check_arms turns ⟨alive, phase, unarmed, idle⟩ running, ⟨alive, idle, .inr rfl⟩, ⟨rfl, rfl, rfl⟩, rfl, rfl⟩
  rw [phase] at phase₁
  rw [source] at source₁
  rw [turns] at turns₁
  have skip := step_sfSkip turns₁ ready phase₁ other source₁
  obtain ⟨alive₁, idle₁, -⟩ := ready
  exact ⟨_, (runSteps_succ check).trans (runSteps_succ skip),
    ⟨⟨alive₁, phase₁, count₁.trans count, idle₁, .inr (running₁.trans running)⟩, rfl, congrArg List.tail source₁,
      congrArg List.tail turns₁⟩, rfl⟩

/-- Settles O42: the second 0xAA ends the attempt that the first one began, and 0x55 and 0x11 are then skipped. -/
theorem doubledFirstMarkerIsNotReexamined : Obligations.DoubledFirstMarkerIsNotReexamined := by
  intro s rest ts top armed running source turns
  obtain ⟨s₂, dropped, between⟩ := firstMark_then_drop top armed running (by decide) source turns
  obtain ⟨s₄, skipped, between, -⟩ := between.check_then_skip (by decide)
  obtain ⟨t, skippedLast, ⟨⟨-, phase, count, ⟨noRequest, -⟩, -⟩, -, source, -⟩, label⟩ := between.check_then_skip (by decide)
  have run : runSteps (2 + (2 + 2)) s = .next t :=
    (runSteps_add dropped).trans ((runSteps_add skipped).trans skippedLast)
  exact ⟨t, run, phase, count, source, noRequest, label⟩

end Sys2Proof.Machine
end
